-- ==== Sys2Proof/Word.lean ====
section
/-! DEFINITION. The two words of the Port: the byte (00_scope.md R2) and the 16-bit operation word (30_encoding.md R50). -/

namespace Sys2Proof

/-- The data unit of both FIFOs: the 8-bit byte (R2). -/
abbrev Byte := BitVec 8

/-- The operation word by which an operation is requested (R50). -/
abbrev OpWord := BitVec 16

end Sys2Proof
end

