-- ==== Sys2Proof/Syntax.lean ====
section
/-! DEFINITION. The nine operations of the opcode table (30_encoding.md R51, R52), their operands as the fields of
the operation word (R50, R54). -/

namespace Sys2Proof

/-- One constructor per row of the opcode table. `f`, `e` and `data` are the fields F, E and DATA of R50; F of
`write` and the fields of the two handler operations record what the environment's signals were when sampled. -/
inductive Instr where
  /-- `INIT` (R111). -/
  | init
  /-- `WRITE data rdy` (R86): `f` is the sample of `uart_tx_ready`, `data` the byte to send. -/
  | write (f : Bool) (data : Byte)
  /-- `TXFREE` (R92). -/
  | txfree
  /-- `TXIDLE` (R93). -/
  | txidle
  /-- `TRYREAD` (R96). -/
  | tryread
  /-- `READB` (R99). -/
  | readb
  /-- `AVAIL` (R100). -/
  | avail
  /-- `TXISR rdy` (R94): `f` is the sample of `uart_tx_ready`. -/
  | txisr (f : Bool)
  /-- `RXISR flag err data` (R101): `e` is the sample of `uart_rx_err`, `f` of `uart_rx_flag`, `data` of
  `uart_rx_data`. -/
  | rxisr (e f : Bool) (data : Byte)
  deriving DecidableEq, Repr

end Sys2Proof
end

