-- ==== Sys2Proof/Decode.lean ====
section
/-! DEFINITION. The operation word (30_encoding.md R50, R51, R55, R60): its fields, the decoder, total on all 65536
words and rejecting by name, and the encoder written from the same table. -/

namespace Sys2Proof

/-- Why a word is reserved (R55). -/
inductive Reserved where
  /-- `OP` is 0x7 or 0xA to 0xF. -/
  | operation
  /-- `Z` is not zero. -/
  | zField
  /-- A field that must be zero for this operation is not zero. -/
  | mustBeZero
  deriving DecidableEq, Repr

/-- `OP`, bits 15:12 (R50). -/
def fieldOP (w : OpWord) : BitVec 4 := w.extractLsb' 12 4

/-- `Z`, bits 11:10 (R50). -/
def fieldZ (w : OpWord) : BitVec 2 := w.extractLsb' 10 2

/-- `E`, bit 9 (R50). -/
def fieldE (w : OpWord) : Bool := w.getLsbD 9

/-- `F`, bit 8 (R50). -/
def fieldF (w : OpWord) : Bool := w.getLsbD 8

/-- `DATA`, bits 7:0 (R50, R54). -/
def fieldDATA (w : OpWord) : Byte := w.extractLsb' 0 8

/-- `i` when the must-be-zero fields are zero. -/
def unlessSet (nonzero : Bool) (i : Instr) : Except Reserved Instr :=
  if nonzero then .error .mustBeZero else .ok i

/-- The row of R51 that `OP` selects, with R50's must-be-zero fields checked. -/
def decodeRow (op : BitVec 4) (e f : Bool) (data : Byte) : Except Reserved Instr :=
  match op.toNat with
  | 0x0 => unlessSet (e || f || data != 0) .init
  | 0x1 => unlessSet e (.write f data)
  | 0x2 => unlessSet (e || f || data != 0) .txfree
  | 0x3 => unlessSet (e || f || data != 0) .txidle
  | 0x4 => unlessSet (e || f || data != 0) .tryread
  | 0x5 => unlessSet (e || f || data != 0) .readb
  | 0x6 => unlessSet (e || f || data != 0) .avail
  | 0x8 => unlessSet (e || data != 0) (.txisr f)
  | 0x9 => .ok (.rxisr e f data)
  | _ => .error .operation

/-- The decoder (R60): one of nine operations with its fields, or the name of what makes the word reserved (R55). -/
def decode (w : OpWord) : Except Reserved Instr :=
  if fieldZ w = 0 then decodeRow (fieldOP w) (fieldE w) (fieldF w) (fieldDATA w) else .error .zField

/-- The word with the given fields and `Z = 0` (R50): `0x1000*OP + 0x200*E + 0x100*F + DATA`. -/
def assemble (op : BitVec 4) (e f : Bool) (data : Byte) : OpWord :=
  BitVec.ofNat 16 (0x1000 * op.toNat + 0x200 * e.toNat + 0x100 * f.toNat + data.toNat)

/-- The word of an operation (R51). -/
def encode : Instr → OpWord
  | .init => assemble 0x0 false false 0
  | .write f data => assemble 0x1 false f data
  | .txfree => assemble 0x2 false false 0
  | .txidle => assemble 0x3 false false 0
  | .tryread => assemble 0x4 false false 0
  | .readb => assemble 0x5 false false 0
  | .avail => assemble 0x6 false false 0
  | .txisr f => assemble 0x8 false f 0
  | .rxisr e f data => assemble 0x9 e f data

/-- The operation word whose bits the opcode table numbers `w`, of which `nbits` are given; every bit above is 0. -/
def tableWord (nbits w : Nat) : OpWord := BitVec.ofNat 16 (w % 2 ^ nbits)

/-- What the decoder reads from the table's word; a number of more than 16 bits is no operation word. -/
def decodeTableWord (nbits w : Nat) : Option Instr :=
  if w % 2 ^ nbits < 2 ^ 16 then (decode (tableWord nbits w)).toOption else none

end Sys2Proof
end

