-- ==== Sys2Proof/Config.lean ====
section
/-! DEFINITION. The implementation parameters of 00_scope.md section 3, held by the machine as the read-only CFG
registers of 10_state.md section 5, and the free values: what the spec leaves open, as constants with no body. -/

namespace Sys2Proof

/-- The two FIFO instances over which the spec's `X` ranges (00_scope.md section 4, R16). -/
inductive Side where
  | tx
  | rx
  deriving DecidableEq, Repr

/-- `POLICY`, the transmit overflow policy (R8). -/
inductive Policy where
  | block
  | discard
  deriving DecidableEq, Repr

/-- `HWGEN`, the peripheral generation (R11). -/
inductive HwGen where
  | genA
  | genB
  deriving DecidableEq, Repr

/-- The configuration of one Port (R5 to R13). No operation writes it. -/
structure Cfg where
  /-- `N_TX`, the transmit capacity in bytes (R5). -/
  nTx : Nat
  /-- `N_RX`, the receive capacity in bytes (R6). -/
  nRx : Nat
  /-- `T`, the flow-control spare threshold (R7). -/
  t : Nat
  /-- `POLICY` (R8). -/
  policy : Policy
  /-- `CTS_PRESENT`: the gate exists (R9). -/
  ctsPresent : Bool
  /-- `CTS_INVERT`: the pin's polarity (R10). -/
  ctsInvert : Bool
  /-- `HWGEN` (R11). -/
  hwgen : HwGen
  /-- Whether `CALLBACK` is registered (R12). What it does is the opaque event `callback` (R105). -/
  callback : Bool
  /-- `W`, the width in bits of an offset register (R13). -/
  w : Nat
  deriving DecidableEq, Repr

/-- The configuration of `State.reset`: the spec's defaults where it gives one (R5, R6, R7, R12, R13).
DESIGN CHOICE (log entry 5, unsafe): POLICY, CTS_PRESENT, CTS_INVERT and HWGEN have no default; Block, present,
not inverted and GEN_A stand here. Statements quantify over every configuration. -/
def Cfg.standard : Cfg :=
  { nTx := 32, nRx := 64, t := 17, policy := .block, ctsPresent := true, ctsInvert := false,
    hwgen := .genA, callback := false, w := 8 }

/-- FREE VALUE (R31, R37, U2, U3): the byte a backing-store slot holds until it is first written. -/
opaque Config.powerOnByte : Side → Nat → Byte

/-- FREE VALUE (R98, U1): the byte `TRYREAD` returns with `found = false`, by number of draw. -/
opaque Config.unfoundByte : Nat → Byte

/-- FREE VALUE (R108, U5): how many reads beyond the first one a flush makes, by number of draw. -/
opaque Config.extraFlushReads : Nat → Nat

end Sys2Proof
end

