-- ==== Sys2Proof/WellFormed.lean ====
section
/-! DEFINITION. The checks on what reaches the machine: a legal configuration (00_scope.md R13), an operation issued
in its own context (60_exceptions.md R128), a split label of the operation's own rule (30_encoding.md R62). An
operation itself has no ill-formed term: its operands have the widths of their fields by type. -/

namespace Sys2Proof

/-- The micro-step labels (10_state.md R27). -/
inductive Label where
  | w0 | w1 | w2 | w3 | w4 | w5 | w6 | w7
  | f0 | f1
  | i0 | i1
  | t0 | t1 | t2 | t3 | t4 | t5 | t6
  | a0 | a1
  deriving DecidableEq, Repr

/-- Who performs an operation (20_memory.md R40). The callback runs in interrupt context and may perform none (R128). -/
inductive Agent where
  | mainline
  | txHandler
  | rxHandler
  | callback
  deriving DecidableEq, Repr

/-- The configuration lies in the ranges of R13 (`93` U21). -/
def Cfg.legal (c : Cfg) : Bool :=
  decide (2 ≤ c.nTx ∧ c.nTx ≤ 2 ^ c.w - 1 ∧ 2 ≤ c.nRx ∧ c.nRx ≤ 2 ^ c.w - 1 ∧ c.t ≤ 2 ^ c.w - 1)

/-- The one agent that performs an operation (R40, R53, R136). -/
def Instr.agent : Instr → Agent
  | .init => .mainline
  | .write _ _ => .mainline
  | .txfree => .mainline
  | .txidle => .mainline
  | .tryread => .mainline
  | .readb => .mainline
  | .avail => .mainline
  | .txisr _ => .txHandler
  | .rxisr _ _ _ => .rxHandler

/-- The agent `a` may perform `i` (R128). -/
def Instr.allowedFrom (i : Instr) (a : Agent) : Bool :=
  decide (i.agent = a)

/-- The micro-step labels of an operation's rule (R27); empty for the three atomic operations (R41, R111). -/
def Instr.labels : Instr → List Label
  | .init => []
  | .write _ _ => [.w0, .w1, .w2, .w3, .w4, .w5, .w6, .w7]
  | .txfree => [.f0, .f1]
  | .txidle => [.i0, .i1]
  | .tryread => [.t0, .t1, .t2, .t3, .t4, .t5, .t6]
  | .readb => [.t0, .t1, .t2, .t3, .t4, .t5, .t6]
  | .avail => [.a0, .a1]
  | .txisr _ => []
  | .rxisr _ _ _ => []

/-- `upto L` names a micro-step of the operation (R62). -/
def Instr.splitsAt (i : Instr) (l : Label) : Bool :=
  decide (l ∈ i.labels)

end Sys2Proof
end

