-- ==== Sys2Proof/Machine/State.lean ====
section
/-! DEFINITION. The state of the Port (10_state.md), the reasons a step can stop, and the state after reset. -/

namespace Sys2Proof.Machine

/-- Why a step faults. The hardware has no trap (60_exceptions.md R116); the one fault is the access R34 rules out. -/
inductive Fault where
  /-- Raised by every access to a backing store at an offset outside `[0, N)`, a slot that does not exist (20_memory.md
  R34). Safe: the machine stops where the spec gives the access no meaning; no state that the rules reach asks for it. -/
  | noSuchSlot
  deriving DecidableEq, Repr

/-- Why a step gives a run no meaning. All are safe: nothing is claimed of the hardware past one. -/
inductive Refusal where
  /-- Raised by an arm of `exec` whose operation has no meaning yet. No arm does. Safe. -/
  | notModelled (mnemonic : String)
  /-- Raised by a request whose word is reserved (30_encoding.md R55). Safe. -/
  | reservedWord (why : Reserved)
  /-- Raised by every operation and RESUME when the configuration is outside the ranges of 00_scope.md R13 (U21). Safe. -/
  | configOutOfRange
  /-- Raised by a change of the configuration after INIT (R14, U21). Safe. -/
  | configChanged
  /-- Raised by every operation but INIT, and by RESUME, before the first INIT has completed (R134, U2). Safe. -/
  | beforeInit
  /-- Raised by a mainline operation, INIT among them, while another one is in progress (R40, R113, R136, U4). Safe. -/
  | overlap
  /-- Raised by an operation in the wrong context or from the callback (R128, R137, U10). Safe. -/
  | wrongContext
  /-- Raised by `upto` on INIT, TXISR or RXISR, inside which no handler can run (R41, R111, R113). Safe. -/
  | splitOfAtomic
  /-- Raised by `upto` with a label that is not one of the operation's (R62). Safe. -/
  | foreignLabel
  /-- Raised by RESUME when no mainline operation is in progress (R62). Safe. -/
  | nothingInProgress
  deriving DecidableEq, Repr

/-- A backing store: the bytes written so far, by offset, offsets strictly rising (`Memory.wf`). A slot that is not
listed has never been written and has no value of its own here (R37); `slotByte` of Ops.lean says what reading it gives. -/
abbrev Memory := List Host.Cell

/-- One FIFO instance `X` (R16). The offsets are `W`-bit registers: below `2 ^ W` at all times (`Fifo.fit`), and in
`[0, N)` from INIT on (R65, R75). -/
structure Fifo where
  /-- `X.head`, the offset of the next write slot. -/
  head : Nat
  /-- `X.tail`, the offset of the next read slot. -/
  tail : Nat
  /-- `X.buf`, the backing store. -/
  buf : Memory
  deriving DecidableEq, Repr

/-- The instance with what `w`-bit registers hold of its offsets (R13, R16). -/
def Fifo.fit (w : Nat) (q : Fifo) : Fifo := { head := q.head % 2 ^ w, tail := q.tail % 2 ^ w, buf := q.buf }

/-- The values of `GATE` (R22): `go` is 1, the remote may send; `stop` is 0 (R57). -/
inductive Gate where
  | go
  | stop
  deriving DecidableEq, Repr

/-- The two operations that run the micro-program T0 to T6 (R96, R99). -/
inductive ReadOp where
  | tryread
  | readb
  deriving DecidableEq, Repr

/-- The mainline micro-sequencer (R27) with the latches the operation in progress holds (R28): each constructor is
a micro-step label, the next to be performed, and carries the latches that hold a value there, under the rule's names.
`d` is the operand byte of a WRITE and `f`, until W2 samples it into `r`, the field F of its word (R50, R86); `r` is
none where W2 was not performed; `seen` is the pair of latches (`t2`, `n`) of the last visit of W4, none before one. -/
inductive Upc where
  /-- No mainline operation in progress. -/
  | idle
  | w0 (d : Byte) (f : Bool)
  | w1 (d : Byte) (f : Bool) (h : Nat)
  | w2 (d : Byte) (f : Bool) (h t : Nat)
  | w3 (d : Byte) (h t : Nat) (r : Bool)
  | w4 (d : Byte) (h t : Nat) (r : Option Bool) (seen : Option (Nat × Nat))
  | w5 (d : Byte) (h t : Nat) (r : Option Bool) (t2 n : Nat)
  | w6 (d : Byte) (h t : Nat) (r : Option Bool) (t2 n : Nat)
  | w7 (d : Byte) (h t : Nat) (r : Option Bool) (seen : Option (Nat × Nat)) (ret : Byte)
  | f0
  | f1 (h : Nat)
  | i0
  | i1 (h : Nat)
  | t0 (op : ReadOp)
  | t1 (op : ReadOp) (h : Nat)
  | t2 (op : ReadOp) (h t : Nat)
  | t3 (op : ReadOp) (h t : Nat) (b : Byte)
  | t4 (op : ReadOp) (h t : Nat) (b : Byte)
  | t5 (op : ReadOp) (h t : Nat) (b : Byte) (h2 f : Nat)
  | t6 (op : ReadOp) (h t : Nat) (b : Byte) (h2 f : Nat) (g : Gate)
  | a0
  | a1 (h : Nat)
  deriving DecidableEq, Repr

/-- The three conditions (R115) with the value each records (R117 to R119). -/
inductive Condition where
  | transmitOverflow (d : Byte)
  | receiveHardwareError
  | receiveBufferOverflow (v : Byte)
  deriving DecidableEq, Repr

/-- The external events (R30). -/
inductive Event where
  /-- `TXREG_write(b)`: the byte goes to the UART transmit data register. -/
  | txregWrite (b : Byte)
  /-- `RXREG_read`: the UART receive data register is read. -/
  | rxregRead
  /-- `RX_reenable`: the receiver is disabled and re-enabled. -/
  | rxReenable
  /-- `UART_configure`: 8-bit words, one stop bit, no parity (R112). -/
  | uartConfigure
  /-- `CTS_drive(level)`: `cts_pin` takes `level`. -/
  | ctsDrive (level : Bool)
  /-- `callback(b)`: the receive callback is invoked with `b`. -/
  | callback (b : Byte)
  /-- `note C(info)`: condition `C` was met. -/
  | note (c : Condition)
  deriving DecidableEq, Repr

/-- A result word (30_encoding.md R56) by its two fields. -/
structure Result where
  /-- `FLAG`. -/
  flag : Bool
  /-- `VALUE`, of 8 bits, or of `W` bits where `W > 8`. -/
  value : Nat
  deriving DecidableEq, Repr

/-- What the outside presents, in the text form of 30_encoding.md R61, R62. -/
inductive Input where
  /-- An operation word presented by an agent (R49, R50); `upto` names the last micro-step to perform (R62). -/
  | request (agent : Agent) (word : OpWord) (upto : Option Label)
  /-- `RESUME` or `RESUME upto L` (R62). -/
  | resume (upto : Option Label)
  /-- The configuration is supplied (R13, R135). -/
  | configure (c : Cfg)
  deriving DecidableEq, Repr

/-- The whole state of one Port (R15). -/
structure State where
  /-- The CFG registers (10_state.md section 5). -/
  cfg : Cfg
  /-- The transmit instance (R16). -/
  tx : Fifo
  /-- The receive instance (R16). -/
  rx : Fifo
  /-- `GATE` (R22); no rule reads or writes it when `CTS_PRESENT` is false (R9). -/
  gate : Gate
  /-- `cts_pin` (R24), the level last driven; meaningful when `CTS_PRESENT`. -/
  ctsPin : Bool
  /-- `TXIE` (R25). -/
  txie : Bool
  /-- `RXIE` (R26). -/
  rxie : Bool
  /-- `upc` and the latches (R27, R28). -/
  upc : Upc
  /-- The first `INIT` has completed (R133, R134). -/
  inited : Bool
  /-- The result word of the last mainline operation to complete; none where it returns none (R56). -/
  result : Option Result
  /-- The event trace, oldest first (R30). -/
  trace : List Event
  /-- The MODEL's own: how many free values have been drawn. -/
  draws : Nat
  /-- The MODEL's own: what is still to be performed, oldest first. -/
  input : List Input
  deriving DecidableEq, Repr

/-- What the spec leaves unspecified at power-on beside the backing stores (R31, R133): any values, of which an offset
register holds the low `W` bits (R16). -/
structure PowerOn where
  txHead : Nat
  txTail : Nat
  rxHead : Nat
  rxTail : Nat
  gate : Gate
  ctsPin : Bool
  txie : Bool
  rxie : Bool
  deriving DecidableEq, Repr

/-- A Port at power-on, before the first INIT (R133): `upc` is idle, no latch is held, the configuration is as
supplied, everything else is any value its width admits. -/
def State.powerOn (c : Cfg) (p : PowerOn) : State :=
  { cfg := c
    tx := Fifo.fit c.w { head := p.txHead, tail := p.txTail, buf := [] }
    rx := Fifo.fit c.w { head := p.rxHead, tail := p.rxTail, buf := [] }
    gate := p.gate, ctsPin := p.ctsPin, txie := p.txie, rxie := p.rxie
    upc := .idle, inited := false, result := none, trace := [], draws := 0, input := [] }

/-- A Port with configuration `c` right after its reset, the operation INIT issued at power-on (R31, R114, R133).
The fields of R31's column "after INIT"; the backing stores have no slot written; the trace holds INIT's events. -/
def State.resetWith (c : Cfg) : State :=
  { cfg := c
    tx := { head := 0, tail := 0, buf := [] }
    rx := { head := 0, tail := 0, buf := [] }
    gate := .go, ctsPin := !c.ctsInvert, txie := false, rxie := true
    upc := .idle, inited := true, result := none
    trace := if c.ctsPresent then [.uartConfigure, .ctsDrive (!c.ctsInvert)] else [.uartConfigure]
    draws := 0, input := [] }

/-- The machine right after reset (R31, R133), with the standard configuration (log entries 1 and 5). -/
def State.reset : State := State.resetWith Cfg.standard

end Sys2Proof.Machine
end

