-- ==== Sys2Proof/Machine/Flags.lean ====
section
/-! DEFINITION. The offset arithmetic and the status logic of an instance: functions of the two offsets, never stored
(40_circular_buffer.md R66 to R70, 41_flow_control_gate.md R78, 10_state.md R18, R19, R24), and the bit codes of state
values (30_encoding.md R57, R58). -/

namespace Sys2Proof.Machine

/-- `next_X(o) = (o + 1) mod N` (R66). -/
def nextOffset (n o : Nat) : Nat := (o + 1) % n

/-- `empty_X(h, t)` (R67). -/
def isEmpty (h t : Nat) : Bool := decide (h = t)

/-- `full_X(h, t)` (R68). -/
def isFull (n h t : Nat) : Bool := decide (nextOffset n h = t)

/-- `occ_X(h, t) = (h - t) mod N`, over the integers (R69; 00_scope.md section 4). -/
def occ (n h t : Nat) : Nat := (((h : Int) - (t : Int)) % (n : Int)).toNat

/-- `free_X(h, t) = N - occ_X(h, t)` (R70). -/
def free (n h t : Nat) : Nat := n - occ n h t

/-- The comparator: `free_RX(h, t) < T` (R78). -/
def below (n t h tl : Nat) : Bool := decide (free n h tl < t)

/-- `GATE = 1` encodes `Go` (R57). -/
def gateBit : Gate → Bool
  | .go => true
  | .stop => false

/-- `cts_pin = GATE xor CTS_INVERT` (R24). -/
def pinLevel (c : Cfg) (g : Gate) : Bool := gateBit g ^^ c.ctsInvert

/-- `CFG.POLICY = 0` encodes `Block`, `1` encodes `Discard` (R58). -/
def policyBit : Policy → Bool
  | .block => false
  | .discard => true

/-- `CFG.HWGEN`: `0` is `GEN_A`, `1` is `GEN_B` (10_state.md section 5). -/
def hwgenBit : HwGen → Bool
  | .genA => false
  | .genB => true

/-- The number of a condition (R120). -/
def conditionCode : Condition → Nat
  | .transmitOverflow _ => 1
  | .receiveHardwareError => 2
  | .receiveBufferOverflow _ => 3

/-- `N_X` of an instance (R16). -/
def State.cap (s : State) : Side → Nat
  | .tx => s.cfg.nTx
  | .rx => s.cfg.nRx

/-- The instance `X`. -/
def State.fifo (s : State) : Side → Fifo
  | .tx => s.tx
  | .rx => s.rx

/-- `empty_X` (R18). -/
def State.empty (s : State) (x : Side) : Bool := isEmpty (s.fifo x).head (s.fifo x).tail

/-- `full_X` (R18). -/
def State.full (s : State) (x : Side) : Bool := isFull (s.cap x) (s.fifo x).head (s.fifo x).tail

/-- `occupancy_X` (R19). -/
def State.occupancy (s : State) (x : Side) : Nat := occ (s.cap x) (s.fifo x).head (s.fifo x).tail

/-- `free_X` (R19). -/
def State.freeSpace (s : State) (x : Side) : Nat := free (s.cap x) (s.fifo x).head (s.fifo x).tail

/-- The output signal `cts_pin`, which exists only when `CTS_PRESENT` (R24). -/
def State.pin (s : State) : Option Bool := if s.cfg.ctsPresent then some s.ctsPin else none

/-- The register `GATE`, which exists only when `CTS_PRESENT` (R9, R22). -/
def State.gateRegister (s : State) : Option Gate := if s.cfg.ctsPresent then some s.gate else none

end Sys2Proof.Machine
end

