-- ==== Sys2Proof/Machine/Operands.lean ====
section
/-! DEFINITION. What an operation takes from its word and what it returns: the classification of RXISR's samples
(43_receive_path.md R101), the result words (30_encoding.md R56), the labels of the micro-sequencer (10_state.md R27). -/

namespace Sys2Proof.Machine

/-- The three cases of RXISR (R101). -/
inductive RxCase where
  | noEvent
  | hardwareError
  | data
  deriving DecidableEq, Repr

/-- The classification: the flag first, then the error (R101). -/
def classify (e f : Bool) : RxCase :=
  if !f then .noEvent else if e then .hardwareError else .data

/-- The discard sentinel (R59). -/
def sentinel : Byte := 0x00

/-- The result word of WRITE: `FLAG = 0`, `VALUE` the byte (R56). -/
def byteResult (b : Byte) : Result := { flag := false, value := b.toNat }

/-- The result word of TXFREE: `FLAG = 0`, `VALUE` the free space (R56). -/
def countResult (n : Nat) : Result := { flag := false, value := n }

/-- The result word of TXIDLE and AVAIL: `FLAG` the Boolean, `VALUE = 0` (R56). -/
def boolResult (p : Bool) : Result := { flag := p, value := 0 }

/-- The result word of TRYREAD and READB: `FLAG = found`, `VALUE` the byte (R56). -/
def readResult (b : Byte) (found : Bool) : Result := { flag := found, value := b.toNat }

/-- The width of `VALUE`: 8 bits, `W` bits where `W > 8` (R56). -/
def valueWidth (c : Cfg) : Nat := max 8 c.w

/-- The result word as a number: `VALUE` in the low bits, `FLAG` above it (R56; DEDUCED for `W > 8`, log entry 7). -/
def Result.word (r : Result) (c : Cfg) : Nat := (if r.flag then 2 ^ valueWidth c else 0) + r.value

/-- The next micro-step label, none when idle (R27). -/
def Upc.label : Upc → Option Label
  | .idle => none
  | .w0 .. => some .w0
  | .w1 .. => some .w1
  | .w2 .. => some .w2
  | .w3 .. => some .w3
  | .w4 .. => some .w4
  | .w5 .. => some .w5
  | .w6 .. => some .w6
  | .w7 .. => some .w7
  | .f0 => some .f0
  | .f1 .. => some .f1
  | .i0 => some .i0
  | .i1 .. => some .i1
  | .t0 .. => some .t0
  | .t1 .. => some .t1
  | .t2 .. => some .t2
  | .t3 .. => some .t3
  | .t4 .. => some .t4
  | .t5 .. => some .t5
  | .t6 .. => some .t6
  | .a0 => some .a0
  | .a1 .. => some .a1

/-- No mainline operation is in progress (R27). -/
def Upc.isIdle (u : Upc) : Bool := u.label.isNone

/-- The labels of the rule of the operation in progress (R27, R62). -/
def Upc.labels : Upc → List Label
  | .idle => []
  | .w0 .. | .w1 .. | .w2 .. | .w3 .. | .w4 .. | .w5 .. | .w6 .. | .w7 .. =>
    [.w0, .w1, .w2, .w3, .w4, .w5, .w6, .w7]
  | .f0 | .f1 .. => [.f0, .f1]
  | .i0 | .i1 .. => [.i0, .i1]
  | .t0 .. | .t1 .. | .t2 .. | .t3 .. | .t4 .. | .t5 .. | .t6 .. => [.t0, .t1, .t2, .t3, .t4, .t5, .t6]
  | .a0 | .a1 .. => [.a0, .a1]

/-- The operation in progress is a WRITE (R95). -/
def Upc.inWrite (u : Upc) : Bool := decide (Label.w0 ∈ u.labels)

end Sys2Proof.Machine
end

