-- ==== Sys2Proof/Machine/Ops.lean ====
section
/-! DEFINITION. The named operations over the Port's memories, registers, event trace and free values: the only ways
its state is read and written by the meanings. Every one is a single access of 20_memory.md R39 or a primitive step of
40_circular_buffer.md section 3. -/

namespace Sys2Proof.Machine

/-! ### The backing stores -/

/-- The byte last written to a slot, none where nothing has been written (R37). -/
def Memory.get? : Memory → Nat → Option Byte
  | [], _ => none
  | (a, b) :: m, o => if a = o then some b else Memory.get? m o

/-- The store with byte `v` at offset `o`; the offsets stay strictly rising. -/
def Memory.set : Memory → Nat → Byte → Memory
  | [], o, v => [(o, v)]
  | (a, b) :: m, o, v =>
    if o < a then (o, v) :: (a, b) :: m
    else if o = a then (o, v) :: m
    else (a, b) :: Memory.set m o v

/-- The canonical form: offsets strictly rising. An unlisted slot has no value of its own, so no listed byte can
repeat one. -/
def Memory.wf : Memory → Bool
  | [] => true
  | [_] => true
  | (a, _) :: (b, c) :: m => decide (a < b) && Memory.wf ((b, c) :: m)

/-- The byte a slot of `X` holds: the last byte written to it, or the free byte it held at power-on (R37, R38, U3). -/
def State.slotByte (s : State) (x : Side) (o : Nat) : Byte :=
  (Memory.get? (s.fifo x).buf o).getD (Config.powerOnByte x o)

/-- `MemRead(X, o, 1)` (R33); an offset outside `[0, N)` has no slot (R34). -/
def memRead (x : Side) (o : Nat) (s : State) : Except Fault Byte :=
  if o < s.cap x then .ok (s.slotByte x o) else .error .noSuchSlot

/-- The instance with the byte `v` at offset `o`. -/
def Fifo.store (q : Fifo) (o : Nat) (v : Byte) : Fifo := { q with buf := Memory.set q.buf o v }

/-- The state with the instance `X` replaced. -/
def State.setFifo (s : State) (x : Side) (q : Fifo) : State :=
  match x with
  | .tx => { s with tx := q }
  | .rx => { s with rx := q }

/-- `MemWrite(X, o, 1, v)` (R33, R34). -/
def memWrite (x : Side) (o : Nat) (v : Byte) (s : State) : Except Fault State :=
  if o < s.cap x then .ok (s.setFifo x ((s.fifo x).store o v)) else .error .noSuchSlot

/-! ### Registers -/

/-- `x[X.head] <- v` (R39). -/
def writeHead (x : Side) (v : Nat) (s : State) : State := s.setFifo x { s.fifo x with head := v }

/-- `x[X.tail] <- v` (R39). -/
def writeTail (x : Side) (v : Nat) (s : State) : State := s.setFifo x { s.fifo x with tail := v }

/-- `x[TXIE] <- v` (R25). -/
def writeTxie (v : Bool) (s : State) : State := { s with txie := v }

/-- `x[RXIE] <- v` (R26). -/
def writeRxie (v : Bool) (s : State) : State := { s with rxie := v }

/-- `upc <- u` (R27). -/
def goTo (u : Upc) (s : State) : State := { s with upc := u }

/-- `next_X(o)` at the capacity of `X` (R66). -/
def State.next (s : State) (x : Side) (o : Nat) : Nat := nextOffset (s.cap x) o

/-! ### Events and conditions -/

/-- `emit E` (R30): the event is appended to the trace. -/
def emit (e : Event) (s : State) : State := { s with trace := s.trace ++ [e] }

/-- `raise C(info)`: TAKING A CONDITION. It is recorded in the trace and does nothing else: no control transfer, no
saved state, no cause register, no handler, no mode change (R116). There is no return from one. -/
def raise (c : Condition) (s : State) : State := emit (.note c) s

/-- `x[GATE] <- g`: the register and, with it, the pin and its event (R24, R81). -/
def writeGate (g : Gate) (s : State) : State :=
  emit (.ctsDrive (pinLevel s.cfg g)) { s with gate := g, ctsPin := pinLevel s.cfg g }

/-- `result v`: the operation completes and returns its result word, none where it has none (R28, R56). -/
def complete (r : Option Result) (s : State) : State := { s with upc := .idle, result := r }

/-! ### Primitive steps and free values -/

/-- The reset step (R73): both offsets of `X` are 0; the backing store is not written (R38). -/
def resetStep (x : Side) (s : State) : State := writeTail x 0 (writeHead x 0 s)

/-- The pop step of an instance found not empty (R72): the byte at the tail is read, then the tail advances. -/
def popStep (x : Side) (s : State) : Except Fault (Byte × State) :=
  match memRead x (s.fifo x).tail s with
  | .ok b => .ok (b, writeTail x (s.next x (s.fifo x).tail) s)
  | .error r => .error r

/-- The byte returned with `found = false`: a free value, fresh at every draw (R98). -/
def drawByte (s : State) : Byte × State := (Config.unfoundByte s.draws, { s with draws := s.draws + 1 })

/-- The flush of the receive hardware (R108): `k >= 1` reads, `k` a fresh free value, then the receiver's re-enable on
GEN_B. External events only. -/
def flush (s : State) : State :=
  { s with
    trace := s.trace ++ List.replicate (Config.extraFlushReads s.draws + 1) .rxregRead
      ++ (match s.cfg.hwgen with
          | .genA => []
          | .genB => [.rxReenable])
    draws := s.draws + 1 }

/-! ### When an operation has a meaning -/

/-- What refuses every operation and RESUME: a configuration out of range (U21), no INIT yet (R134). -/
def blocked (s : State) : Option Refusal :=
  if s.cfg.legal then if s.inited then none else some .beforeInit else some .configOutOfRange

/-- What refuses a mainline operation: `blocked`, or another one in progress (R40, R136). -/
def blockedMainline (s : State) : Option Refusal :=
  match blocked s with
  | some r => some r
  | none => if s.upc.isIdle then none else some .overlap

/-- What refuses INIT: a configuration out of range (U21), a mainline operation in progress (R113). -/
def blockedInit (s : State) : Option Refusal :=
  if s.cfg.legal then if s.upc.isIdle then none else some .overlap else some .configOutOfRange

/-- The outcome of one micro-step of the mainline operation in progress. -/
inductive Progress where
  /-- The operation is at its next micro-step. -/
  | onward (s : State)
  /-- The operation has returned to an earlier micro-step to wait for another agent (R88, R99). -/
  | waiting (s : State)
  /-- The operation has completed. -/
  | done (s : State)
  /-- The access does not exist. -/
  | fault (r : Fault)
  deriving DecidableEq, Repr

end Sys2Proof.Machine
end

