-- ==== Sys2Proof/Machine/Gate.lean ====
section
/-! DEFINITION. The transitions of the CTS flow-control gate (41_flow_control_gate.md). Nothing here happens when
`CTS_PRESENT` is false (R77). -/

namespace Sys2Proof.Machine

/-- Opening it by force: INIT (R79) and receive-error recovery (R80). -/
def openGate (s : State) : State := if s.cfg.ctsPresent then writeGate .go s else s

/-- The closing step of RXISR case 3 (R84): `GATE <- Stop` whenever the free space is below `T`, whatever it held. -/
def closeGate (s : State) : State :=
  if s.cfg.ctsPresent && below s.cfg.nRx s.cfg.t s.rx.head s.rx.tail then writeGate .stop s else s

/-- The free space computed at T4 from the head read there and the latched tail (R85). -/
def openingFree (s : State) (t h2 : Nat) : Nat := free s.cfg.nRx h2 (s.next .rx t)

/-- Both tests of the opening step (R85): the gate read at T5 is `Stop` and the latched free space is at least `T`. -/
def reopens (s : State) (f : Nat) (g : Gate) : Bool := decide (g = .stop ∧ s.cfg.t ≤ f)

end Sys2Proof.Machine
end

