-- ==== Sys2Proof/Machine/Lifecycle.lean ====
section
/-! DEFINITION. The port lifecycle: INIT (44_port_lifecycle.md). -/

namespace Sys2Proof.Machine

/-- The transition of INIT (R111): one atomic transition, in the order of the rule. -/
def initialise (s : State) : State :=
  complete none
    { openGate (writeTxie false (writeRxie true (emit .uartConfigure (resetStep .rx (resetStep .tx s))))) with
      inited := true }

/-- `INIT` (R111). Refused with a configuration out of range (U21) or with a mainline operation in progress (R113). -/
def execInit (s : State) : Host.Outcome State Fault Refusal :=
  match blockedInit s with
  | some r => .refused r
  | none => .next (initialise s)

end Sys2Proof.Machine
end

