-- ==== Sys2Proof/Machine/ReceiveMicro.lean ====
section
/-! DEFINITION. The micro-programs of the receive path (43_receive_path.md R96, R99, R100; 41_flow_control_gate.md
R85), one definition a label. -/

namespace Sys2Proof.Machine

/-- `T0: h <- x[RX.head]` (R96). -/
def microT0 (op : ReadOp) (s : State) : Progress := .onward (goTo (.t1 op s.rx.head) s)

/-- READB starts over at T0 (R99), to wait there unless a byte has come in since its last T0. -/
def startOver (s : State) : Progress :=
  if s.empty .rx then .waiting (goTo (.t0 .readb) s) else .onward (goTo (.t0 .readb) s)

/-- What follows T1 where it finds the latches equal: TRYREAD returns an unspecified byte and `found = false` (R98);
READB starts over (R99). -/
def notFound (op : ReadOp) (s : State) : Progress :=
  match op with
  | .tryread => .done (complete (some (readResult (drawByte s).1 false)) (drawByte s).2)
  | .readb => startOver s

/-- `T1: t <- x[RX.tail]`; empty: not found (R96). -/
def microT1 (op : ReadOp) (h : Nat) (s : State) : Progress :=
  if isEmpty h s.rx.tail then notFound op s else .onward (goTo (.t2 op h s.rx.tail) s)

/-- `T2: b <- MemRead(RX, t, 1)` (R96). -/
def microT2 (op : ReadOp) (h t : Nat) (s : State) : Progress :=
  match memRead .rx t s with
  | .ok b => .onward (goTo (.t3 op h t b) s)
  | .error e => .fault e

/-- The operation completes with the byte popped (R56, R96, R99). -/
def found (b : Byte) (s : State) : Progress := .done (complete (some (readResult b true)) s)

/-- `T3: x[RX.tail] <- next_RX(t)`, from the latch; without a gate the operation ends here (R77, R96). -/
def microT3 (op : ReadOp) (h t : Nat) (b : Byte) (s : State) : Progress :=
  if s.cfg.ctsPresent then .onward (goTo (.t4 op h t b) (writeTail .rx (s.next .rx t) s))
  else found b (writeTail .rx (s.next .rx t) s)

/-- `T4: h2 <- x[RX.head]; f <- free_RX(h2, next_RX(t))` (R85, R97). -/
def microT4 (op : ReadOp) (h t : Nat) (b : Byte) (s : State) : Progress :=
  .onward (goTo (.t5 op h t b s.rx.head (openingFree s t s.rx.head)) s)

/-- `T5: g <- x[GATE]`; T6 follows only when both tests hold (R85, R97). -/
def microT5 (op : ReadOp) (h t : Nat) (b : Byte) (h2 f : Nat) (s : State) : Progress :=
  if reopens s f s.gate then .onward (goTo (.t6 op h t b h2 f s.gate) s) else found b s

/-- `T6: x[GATE] <- Go` (R85, R97). -/
def microT6 (b : Byte) (s : State) : Progress := found b (writeGate .go s)

/-- `A0: h <- x[RX.head]` (R100). -/
def microA0 (s : State) : Progress := .onward (goTo (.a1 s.rx.head) s)

/-- `A1: t <- x[RX.tail]; result (h != t)` (R100). -/
def microA1 (h : Nat) (s : State) : Progress :=
  .done (complete (some (boolResult (!isEmpty h s.rx.tail))) s)

end Sys2Proof.Machine
end

