-- ==== Sys2Proof/Machine/TransmitMicro.lean ====
section
/-! DEFINITION. The micro-programs of the transmit path (42_transmit_path.md R86, R92, R93), one definition a label. -/

namespace Sys2Proof.Machine

/-- `W0: h <- x[TX.head]` (R86). -/
def microW0 (d : Byte) (f : Bool) (s : State) : Progress :=
  .onward (goTo (.w1 d f s.tx.head) s)

/-- `W1: t <- x[TX.tail]`; not empty: queue (R86). -/
def microW1 (d : Byte) (f : Bool) (h : Nat) (s : State) : Progress :=
  if isEmpty h s.tx.tail then .onward (goTo (.w2 d f h s.tx.tail) s)
  else .onward (goTo (.w4 d h s.tx.tail none none) s)

/-- `W2: r <- sample(uart_tx_ready)`, the field F; busy: queue (R86, R87). -/
def microW2 (d : Byte) (f : Bool) (h t : Nat) (s : State) : Progress :=
  if f then .onward (goTo (.w3 d h t f) s) else .onward (goTo (.w4 d h t (some f) none) s)

/-- `W3: emit TXREG_write(d); ret <- d`, the fast path (R86, R87). -/
def microW3 (d : Byte) (h t : Nat) (r : Bool) (s : State) : Progress :=
  .onward (goTo (.w7 d h t (some r) none d) (emit (.txregWrite d) s))

/-- The condition of W4's first visit (R86, R117): later visits of a spin record nothing. -/
def noteOverflowOnce (d : Byte) (seen : Option (Nat × Nat)) (s : State) : State :=
  match seen with
  | none => raise (.transmitOverflow d) s
  | some _ => s

/-- `W4: t2 <- x[TX.tail]; n <- next_TX(h)`; full: the sentinel under Discard (R89), the spin under Block (R88). -/
def microW4 (d : Byte) (h t : Nat) (r : Option Bool) (seen : Option (Nat × Nat)) (s : State) : Progress :=
  if isFull s.cfg.nTx h s.tx.tail then
    match s.cfg.policy with
    | .discard =>
      .onward (goTo (.w7 d h t r (some (s.tx.tail, s.next .tx h)) sentinel) (noteOverflowOnce d seen s))
    | .block =>
      .waiting (goTo (.w4 d h t r (some (s.tx.tail, s.next .tx h))) (noteOverflowOnce d seen s))
  else .onward (goTo (.w5 d h t r s.tx.tail (s.next .tx h)) s)

/-- `W5: MemWrite(TX, h, 1, d)` (R86). -/
def microW5 (d : Byte) (h t : Nat) (r : Option Bool) (t2 n : Nat) (s : State) : Progress :=
  match memWrite .tx h d s with
  | .ok s' => .onward (goTo (.w6 d h t r t2 n) s')
  | .error e => .fault e

/-- `W6: x[TX.head] <- n; ret <- d` (R86). -/
def microW6 (d : Byte) (h t : Nat) (r : Option Bool) (t2 n : Nat) (s : State) : Progress :=
  .onward (goTo (.w7 d h t r (some (t2, n)) d) (writeHead .tx n s))

/-- `W7: x[TXIE] <- 1; result ret` (R86, R90, R91). -/
def microW7 (ret : Byte) (s : State) : Progress :=
  .done (complete (some (byteResult ret)) (writeTxie true s))

/-- `F0: h <- x[TX.head]` (R92). -/
def microF0 (s : State) : Progress := .onward (goTo (.f1 s.tx.head) s)

/-- `F1: t <- x[TX.tail]; result free_TX(h, t)` (R92). -/
def microF1 (h : Nat) (s : State) : Progress :=
  .done (complete (some (countResult (free s.cfg.nTx h s.tx.tail))) s)

/-- `I0: h <- x[TX.head]` (R93). -/
def microI0 (s : State) : Progress := .onward (goTo (.i1 s.tx.head) s)

/-- `I1: t <- x[TX.tail]; result (h == t)` (R93). -/
def microI1 (h : Nat) (s : State) : Progress :=
  .done (complete (some (boolResult (isEmpty h s.tx.tail))) s)

end Sys2Proof.Machine
end

