-- ==== Sys2Proof/Machine/Sequencer.lean ====
section
/-! DEFINITION. The mainline micro-sequencer (10_state.md R27): one micro-step of the operation in progress, and its
run with no handler between micro-steps (30_encoding.md R62). -/

namespace Sys2Proof.Machine

/-- One micro-step: the one `upc` names, with at most one shared access (R42). Idle, nothing is performed. -/
def microStep (s : State) : Progress :=
  match s.upc with
  | .idle => .done s
  | .w0 d f => microW0 d f s
  | .w1 d f h => microW1 d f h s
  | .w2 d f h t => microW2 d f h t s
  | .w3 d h t r => microW3 d h t r s
  | .w4 d h t r seen => microW4 d h t r seen s
  | .w5 d h t r t2 n => microW5 d h t r t2 n s
  | .w6 d h t r t2 n => microW6 d h t r t2 n s
  | .w7 _ _ _ _ _ ret => microW7 ret s
  | .f0 => microF0 s
  | .f1 h => microF1 h s
  | .i0 => microI0 s
  | .i1 h => microI1 h s
  | .t0 op => microT0 op s
  | .t1 op h => microT1 op h s
  | .t2 op h t => microT2 op h t s
  | .t3 op h t b => microT3 op h t b s
  | .t4 op h t b => microT4 op h t b s
  | .t5 op h t b h2 f => microT5 op h t b h2 f s
  | .t6 _ _ _ b _ _ _ => microT6 b s
  | .a0 => microA0 s
  | .a1 h => microA1 h s

/-- A bound on the micro-steps from any label to completion or to a wait: no path performs more than eight, which a READB
takes that finds at T1 its latches equal and a byte come in since its T0. -/
def microBound : Nat := 9

/-- Micro-steps one after the other until the operation completes or waits, or until the one labelled `upto` has been
performed (R62). A waiting operation stays where it is, for with no other agent between its loop changes nothing, unless
`upto` names the micro-step it has returned to, which is then performed. -/
def runMicro (upto : Option Label) : Nat → State → Host.Outcome State Fault Refusal
  | 0, s => .next s
  | k + 1, s =>
    match microStep s with
    | .onward s' => if upto.isSome && decide (s.upc.label = upto) then .next s' else runMicro upto k s'
    | .waiting s' =>
      if upto.isSome && decide (s'.upc.label = upto) && decide (s.upc.label ≠ upto) then runMicro upto k s' else .next s'
    | .done s' => .next s'
    | .fault r => .fault r

/-- A mainline operation is issued: it starts at its first micro-step and runs, up to the label given, with no handler
between its micro-steps (R40, R62). -/
def issueUpto (upto : Option Label) (start : Upc) (s : State) : Host.Outcome State Fault Refusal :=
  match blockedMainline s with
  | some r => .refused r
  | none => runMicro upto microBound (goTo start s)

/-- A mainline operation is issued on a line of its own (R62). -/
def issue (start : Upc) (s : State) : Host.Outcome State Fault Refusal := issueUpto none start s

/-- The operation in progress goes on, up to the label given, with its latches as they are (R62, R126). -/
def resumeUpto (upto : Option Label) (s : State) : Host.Outcome State Fault Refusal :=
  match blocked s with
  | some r => .refused r
  | none => runMicro upto microBound s

/-- Mainline goes on by one micro-step (R42). -/
def advance (s : State) : Host.Outcome State Fault Refusal :=
  match blocked s with
  | some r => .refused r
  | none =>
    match microStep s with
    | .onward s' => .next s'
    | .waiting s' => .next s'
    | .done s' => .next s'
    | .fault r => .fault r

/-- The first micro-step of a mainline operation with a micro-program, with its operands; none for the atomic ones. -/
def startOf : Instr → Option Upc
  | .init => none
  | .write f d => some (.w0 d f)
  | .txfree => some .f0
  | .txidle => some .i0
  | .tryread => some (.t0 .tryread)
  | .readb => some (.t0 .readb)
  | .avail => some .a0
  | .txisr _ => none
  | .rxisr _ _ _ => none

end Sys2Proof.Machine
end

