-- ==== Sys2Proof/Machine/Receive.lean ====
section
/-! DEFINITION. The receive path (43_receive_path.md): TRYREAD, READB, AVAIL, RXISR. -/

namespace Sys2Proof.Machine

/-- `TRYREAD` (R96): the micro-program T0 to T6 with no handler between. -/
def execTryread (s : State) : Host.Outcome State Fault Refusal := issue (.t0 .tryread) s

/-- `READB` (R99): TRYREAD repeated until found. On an empty instance the operation is left waiting at T0. -/
def execReadb (s : State) : Host.Outcome State Fault Refusal := issue (.t0 .readb) s

/-- `AVAIL` (R100). -/
def execAvail (s : State) : Host.Outcome State Fault Refusal := issue .a0 s

/-- Case 2, hardware error (R103): the condition, the flush, the reset step, the gate forced open (R80). -/
def recoverReceive (s : State) : State :=
  openGate (resetStep .rx (flush (raise .receiveHardwareError s)))

/-- The callback of case 3, where one is registered (R105). -/
def invokeCallback (v : Byte) (s : State) : State :=
  if s.cfg.callback then emit (.callback v) s else s

/-- The head of case 3 (R104, R106): the candidate is committed, or the byte is dropped when it equals the tail. -/
def commitOrDrop (v : Byte) (s : State) : State :=
  if s.full .rx then raise (.receiveBufferOverflow v) s else writeHead .rx (s.next .rx s.rx.head) s

/-- Case 3, normal data (R104): the byte is stored at the head before the full test, then the callback, the head, and
the closing step (R107). -/
def receiveData (v : Byte) (s : State) : Host.Outcome State Fault Refusal :=
  match memWrite .rx s.rx.head v (emit .rxregRead s) with
  | .ok s' => .next (closeGate (commitOrDrop v (invokeCallback v s')))
  | .error r => .fault r

/-- The receive handler's transition (R101) with the samples of its three signals (R110). -/
def receiveHandler (e f : Bool) (data : Byte) (s : State) : Host.Outcome State Fault Refusal :=
  match classify e f with
  | .noEvent => .next s
  | .hardwareError => .next (recoverReceive s)
  | .data => receiveData data s

/-- `RXISR` (R101): atomic, whatever mainline is doing (R41, R125). -/
def execRxisr (e f : Bool) (data : Byte) (s : State) : Host.Outcome State Fault Refusal :=
  match blocked s with
  | some r => .refused r
  | none => receiveHandler e f data s

end Sys2Proof.Machine
end

