-- ==== Sys2Proof/Machine/Transmit.lean ====
section
/-! DEFINITION. The transmit path (42_transmit_path.md): WRITE, TXFREE, TXIDLE, TXISR. -/

namespace Sys2Proof.Machine

/-- `WRITE` (R86): the micro-program W0 to W7 with no handler between. Under Block on a full instance the operation is
left waiting at W4 (R88). -/
def execWrite (f : Bool) (data : Byte) (s : State) : Host.Outcome State Fault Refusal :=
  issue (.w0 data f) s

/-- `TXFREE` (R92). -/
def execTxfree (s : State) : Host.Outcome State Fault Refusal := issue .f0 s

/-- `TXIDLE` (R93). -/
def execTxidle (s : State) : Host.Outcome State Fault Refusal := issue .i0 s

/-- The transmit handler's transition (R94) with the sample of `uart_tx_ready`. -/
def transmitHandler (ready : Bool) (s : State) : Host.Outcome State Fault Refusal :=
  if ready && s.txie then
    if s.empty .tx then .next (writeTxie false s)
    else
      match popStep .tx s with
      | .ok (b, s') => .next (emit (.txregWrite b) s')
      | .error r => .fault r
  else .next s

/-- `TXISR` (R94): atomic, whatever mainline is doing (R41, R125). -/
def execTxisr (f : Bool) (s : State) : Host.Outcome State Fault Refusal :=
  match blocked s with
  | some r => .refused r
  | none => transmitHandler f s

end Sys2Proof.Machine
end

