-- ==== Sys2Proof/Machine/Dispatch.lean ====
section
/-! DEFINITION. The meaning of every operation: one arm per row of the opcode table. -/

namespace Sys2Proof.Machine

def exec (i : Instr) (s : State) : Host.Outcome State Fault Refusal :=
  match i with
  | .init => Sys2Proof.Machine.execInit s
  | .write f data => Sys2Proof.Machine.execWrite f data s
  | .txfree => Sys2Proof.Machine.execTxfree s
  | .txidle => Sys2Proof.Machine.execTxidle s
  | .tryread => Sys2Proof.Machine.execTryread s
  | .readb => Sys2Proof.Machine.execReadb s
  | .avail => Sys2Proof.Machine.execAvail s
  | .txisr f => Sys2Proof.Machine.execTxisr f s
  | .rxisr e f data => Sys2Proof.Machine.execRxisr e f data s

end Sys2Proof.Machine
end

