-- ==== Sys2Proof/Machine/Schedule.lean ====
section
/-! DEFINITION. What the outside presents (30_encoding.md R61, R62) and how one item of it is performed: the agent is
checked (60_exceptions.md R128), the word decoded (R60), the operation performed whole or up to a label. -/

namespace Sys2Proof.Machine

/-- An operation performed up to and including the micro-step `l` (R62). The three atomic operations cannot be split
(R41, R111). -/
def execUpto (i : Instr) (l : Label) (s : State) : Host.Outcome State Fault Refusal :=
  match startOf i with
  | none => .refused .splitOfAtomic
  | some start => if i.splitsAt l then issueUpto (some l) start s else .refused .foreignLabel

/-- A decoded operation, whole or up to a label. -/
def performInstr (upto : Option Label) (i : Instr) (s : State) : Host.Outcome State Fault Refusal :=
  match upto with
  | none => exec i s
  | some l => execUpto i l s

/-- A request (R49, R50): a reserved word is refused (R55), and so is an operation in the wrong context (R128). -/
def performRequest (agent : Agent) (word : OpWord) (upto : Option Label) (s : State) :
    Host.Outcome State Fault Refusal :=
  match decode word with
  | .error why => .refused (.reservedWord why)
  | .ok i => if i.allowedFrom agent then performInstr upto i s else .refused .wrongContext

/-- `RESUME` (R62): the operation in progress goes on; the label is one of its rule. -/
def performResume (upto : Option Label) (s : State) : Host.Outcome State Fault Refusal :=
  if s.upc.isIdle then .refused .nothingInProgress
  else
    match upto with
    | none => resumeUpto none s
    | some l => if decide (l ∈ s.upc.labels) then resumeUpto (some l) s else .refused .foreignLabel

/-- The Port built with the configuration `c` (R135): its offset registers are `W` bits wide (R13, R16). -/
def configured (c : Cfg) (s : State) : State := { s with cfg := c, tx := s.tx.fit c.w, rx := s.rx.fit c.w }

/-- The configuration is supplied (R135); after INIT none may change (R14). -/
def performConfigure (c : Cfg) (s : State) : Host.Outcome State Fault Refusal :=
  if s.inited then if c = s.cfg then .next s else .refused .configChanged else .next (configured c s)

/-- One item of what the outside presents. -/
def perform (x : Input) (s : State) : Host.Outcome State Fault Refusal :=
  match x with
  | .request agent word upto => performRequest agent word upto s
  | .resume upto => performResume upto s
  | .configure c => performConfigure c s

/-- With nothing presented, mainline goes on by one micro-step (R42); idle, the Port executes nothing (R133). -/
def unattended (s : State) : Host.Outcome State Fault Refusal :=
  if s.upc.isIdle then .next s else advance s

/-- The agent to which a word belongs: `OP[3]` tells handler words, bit 12 which handler (R51, R53). -/
def agentOf (w : OpWord) : Agent :=
  if w.getLsbD 15 then if w.getLsbD 12 then .rxHandler else .txHandler else .mainline

/-- The request of a word by the agent to which it belongs. -/
def requestOf (w : OpWord) : Input := .request (agentOf w) w none

end Sys2Proof.Machine
end

