-- ==== Sys2Proof/Machine/Step.lean ====
section
/-! DEFINITION. One step of the Port. It fetches nothing (20_memory.md R49): the next item the outside presents is
taken from `input` and performed. -/

namespace Sys2Proof.Machine

/-- The step: the oldest item presented is performed; with none, mainline goes on where it is. -/
def step (s : State) : Host.Outcome State Fault Refusal :=
  match s.input with
  | [] => unattended s
  | x :: rest => perform x { s with input := rest }

/-- `s` with the operation word of the table presented as the next request, by the agent to which it belongs. -/
def State.withFetchWord (s : State) (nbits w : Nat) : State :=
  { s with input := requestOf (tableWord nbits w) :: s.input }

end Sys2Proof.Machine
end

