-- ==== Sys2Proof/Safety.lean ====
section
/-! DEFINITION. What counts as a safe run and a coherent state, and the views of the state in which claims about the
FIFOs are made: the live window (00_scope.md glossary) and the bytes sent (10_state.md R30). -/

namespace Sys2Proof.Machine

/-! ### When an operation may be issued -/

/-- A handler may run: the configuration is legal and INIT has completed (R134). -/
abbrev Armed (s : State) : Prop := s.cfg.legal = true ∧ s.inited = true

/-- A mainline operation may be issued: moreover none is in progress (R40). -/
abbrev Ready (s : State) : Prop := Armed s ∧ s.upc = .idle

/-! ### Safe runs -/

/-- The step is given a meaning: it neither faults nor is refused. -/
def Safe (s : State) : Prop := ∃ t, step s = .next t

/-- `k` steps from `s` are all given a meaning. -/
def SafeRun (k : Nat) (s : State) : Prop := ∃ t, Host.Core.run Sys2Proof.core k s = .next t

/-! ### Views -/

/-- The offsets of the live window of `X`, oldest byte first: `tail, tail + 1, ..., head - 1` modulo `N`. -/
def State.liveWindow (s : State) (x : Side) : List Nat :=
  (List.range (s.occupancy x)).map fun k => ((s.fifo x).tail + k) % s.cap x

/-- The bytes queued in `X`, oldest first. -/
def State.queued (s : State) (x : Side) : List Byte := (s.liveWindow x).map (s.slotByte x)

/-- The byte an event writes to the UART transmit data register. -/
def sentByte : Event → Option Byte
  | .txregWrite b => some b
  | _ => none

/-- The bytes handed to the UART, in order: those of the `TXREG_write` events (R30, R95). -/
def State.sent (s : State) : List Byte := s.trace.filterMap sentByte

/-- The byte a WRITE accepts for transmission: its operand, unless the instance is found full (R87, R89). -/
def acceptedByte (i : Instr) (s : State) : List Byte :=
  match i with
  | .write _ d => if s.full .tx then [] else [d]
  | _ => []

/-- The byte a micro-step of a WRITE hands over: W3 to the UART, W6 to the queue (R86). -/
def Upc.handsOver : Upc → List Byte
  | .w3 d _ _ _ => [d]
  | .w6 d _ _ _ _ _ => [d]
  | _ => []

/-- The byte of a WRITE standing at `u` that is still to be handed over, with no handler between: none where the instance
is found full under Discard (R89), or past W3 and W6. -/
def owedAt (u : Upc) (s : State) : List Byte :=
  match u with
  | .w0 d _ | .w1 d _ _ | .w2 d _ _ _ | .w3 d _ _ _ | .w4 d _ _ _ _ =>
    if s.full .tx = true ∧ s.cfg.policy = .discard then [] else [d]
  | .w5 d _ _ _ _ _ | .w6 d _ _ _ _ _ => [d]
  | _ => []

/-- The byte the operation in progress has still to hand over. -/
def State.owed (s : State) : List Byte := owedAt s.upc s

/-- The byte an RXISR commits: that of case 3, unless the instance is found full (R104, R106). -/
def committedByte (i : Instr) (s : State) : List Byte :=
  match i with
  | .rxisr e f d => if classify e f = .data ∧ s.full .rx = false then [d] else []
  | _ => []

/-- The outcome with its next state changed. -/
def mapNext (g : State → State) : Host.Outcome State Fault Refusal → Host.Outcome State Fault Refusal
  | .next t => .next (g t)
  | .fault r => .fault r
  | .refused r => .refused r

/-! ### Coherent states -/

/-- Both offsets of `X` are in `[0, N)` (R65). -/
def OffsetsInRange (s : State) : Prop :=
  ∀ x, (s.fifo x).head < s.cap x ∧ (s.fifo x).tail < s.cap x

/-- Every offset register holds a value of its width (R13, R16). -/
def OffsetsFitWidth (s : State) : Prop :=
  ∀ x, (s.fifo x).head < 2 ^ s.cfg.w ∧ (s.fifo x).tail < 2 ^ s.cfg.w

/-- Only slots that exist have been written (R32, R34). -/
def SlotsInRange (s : State) : Prop := ∀ x, ∀ c ∈ (s.fifo x).buf, c.1 < s.cap x

/-- The canonical form of both backing stores. -/
def MemoryCanonical (s : State) : Prop := ∀ x, Memory.wf (s.fifo x).buf = true

/-- The two offsets latched by the last visit of W4. -/
def seenOffsets : Option (Nat × Nat) → List Nat
  | none => []
  | some (tail, n) => [tail, n]

/-- The latches that hold an offset of the transmit instance. -/
def Upc.txOffsets : Upc → List Nat
  | .w1 _ _ h => [h]
  | .w2 _ _ h t => [h, t]
  | .w3 _ h t _ => [h, t]
  | .w4 _ h t _ seen => h :: t :: seenOffsets seen
  | .w5 _ h t _ tail n => [h, t, tail, n]
  | .w6 _ h t _ tail n => [h, t, tail, n]
  | .w7 _ h t _ seen _ => h :: t :: seenOffsets seen
  | .f1 h => [h]
  | .i1 h => [h]
  | _ => []

/-- The latches that hold an offset of the receive instance. -/
def Upc.rxOffsets : Upc → List Nat
  | .t1 _ h => [h]
  | .t2 _ h t => [h, t]
  | .t3 _ h t _ => [h, t]
  | .t4 _ h t _ => [h, t]
  | .t5 _ h t _ h2 _ => [h, t, h2]
  | .t6 _ h t _ h2 _ _ => [h, t, h2]
  | .a1 h => [h]
  | _ => []

/-- The latch `f`, a free space of the receive instance (R85). -/
def Upc.rxCounts : Upc → List Nat
  | .t5 _ _ _ _ _ f => [f]
  | .t6 _ _ _ _ _ f _ => [f]
  | _ => []

/-- Every latched offset is in range (R34), and every latched free space at most `N` (R19). -/
def LatchesInRange (s : State) : Prop :=
  (∀ v ∈ s.upc.txOffsets, v < s.cfg.nTx) ∧ (∀ v ∈ s.upc.rxOffsets, v < s.cfg.nRx) ∧
    ∀ v ∈ s.upc.rxCounts, v ≤ s.cfg.nRx

/-- What mainline, the only producer of the transmit instance (R43), knows while its latches age: `h` is still
`TX.head` (R71, R88); on the way to the fast path the instance is still empty (R87); from W5 on the candidate `n` is
still not the tail; at W6 the byte is in its slot (R71). -/
def WriterCoherent (s : State) : Prop :=
  match s.upc with
  | .w1 _ _ h => h = s.tx.head
  | .w2 _ _ h t => h = s.tx.head ∧ t = h ∧ s.tx.tail = h
  | .w3 _ h t _ => h = s.tx.head ∧ t = h ∧ s.tx.tail = h
  | .w4 _ h _ _ _ => h = s.tx.head
  | .w5 _ h _ _ _ n => h = s.tx.head ∧ n = s.next .tx h ∧ n ≠ s.tx.tail
  | .w6 d h _ _ _ n => h = s.tx.head ∧ n = s.next .tx h ∧ n ≠ s.tx.tail ∧ s.slotByte .tx h = d
  | .f1 h => h = s.tx.head
  | .i1 h => h = s.tx.head
  | _ => True

/-- The gate's micro-steps T4 to T6 are performed only where there is a gate (R9, R96). -/
def GatedCoherent (s : State) : Prop :=
  s.upc.label = some .t4 ∨ s.upc.label = some .t5 ∨ s.upc.label = some .t6 → s.cfg.ctsPresent = true

/-- A state of a Port as it runs: at all times the offset registers hold values of their width; before the first INIT
nothing is in progress and no slot has been written; after it the configuration is legal and offsets, slots, latches, the
writer's knowledge and the gate's micro-steps are as the rules leave them. -/
structure Coherent (s : State) : Prop where
  widths : OffsetsFitWidth s
  untouched : s.inited = false → s.upc = .idle ∧ s.tx.buf = [] ∧ s.rx.buf = []
  legal : s.inited = true → s.cfg.legal = true
  offsets : s.inited = true → OffsetsInRange s
  slots : s.inited = true → SlotsInRange s
  latches : s.inited = true → LatchesInRange s
  writer : s.inited = true → WriterCoherent s
  gated : s.inited = true → GatedCoherent s

/-- After INIT the pin is the gate xor the polarity (R24). -/
def PinFollowsGate (s : State) : Prop :=
  s.inited = true → s.cfg.ctsPresent = true → s.ctsPin = pinLevel s.cfg s.gate

/-- After INIT the receive interrupt is enabled (R26, R123). -/
def ReceiveInterruptEnabled (s : State) : Prop := s.inited = true → s.rxie = true

/-- After INIT, and but for a WRITE about to perform W7, a transmit instance that is not empty has its interrupt
enabled (R95). -/
def TransmitInterruptEnabled (s : State) : Prop :=
  s.inited = true → s.upc.label ≠ some .w7 → s.empty .tx = false → s.txie = true

/-- After INIT the result word held fits its width: `VALUE` below `2 ^ max(8, W)` (R56). -/
def ResultFits (s : State) : Prop :=
  s.inited = true → ∀ r, s.result = some r → r.value < 2 ^ valueWidth s.cfg

end Sys2Proof.Machine
end

