-- ==== Sys2Proof/Certificates/Slice0/Obligations.lean ====
section
/-! DEFINITION. The statements about the Port for the provers. -/

open Sys2Proof Sys2Proof.Machine

/-! ### Encoding -/

/-- Decoding the word of an operation gives it back, with every operand (30_encoding.md R50, R51). -/
def Obligations.DecodeOfEncodeIsIdentity : Prop :=
  ∀ i : Instr, decode (encode i) = .ok i

/-- A word that decodes is the word of what it decodes to: no two words share a meaning (R50, R51). -/
def Obligations.EncodeOfDecodeIsIdentity : Prop :=
  ∀ (w : OpWord) (i : Instr), decode w = .ok i → encode i = w

/-- R55: which words are reserved; that they are refused whoever presents them; the match and mask table. -/
def Obligations.ReservedWordsAreRefused : Prop :=
  ∀ w : OpWord,
    ((∃ why, decode w = .error why) ↔
      fieldOP w = 0x7 ∨ 0xA ≤ fieldOP w ∨ fieldZ w ≠ 0 ∨
      (fieldE w = true ∧ fieldOP w ≠ 0x9) ∨
      (fieldF w = true ∧ fieldOP w ≠ 0x1 ∧ fieldOP w ≠ 0x8 ∧ fieldOP w ≠ 0x9) ∨
      (fieldDATA w ≠ 0 ∧ fieldOP w ≠ 0x1 ∧ fieldOP w ≠ 0x9)) ∧
    (∀ why, decode w = .error why → ∀ s agent upto rest,
      s.input = .request agent w upto :: rest → step s = .refused (.reservedWord why)) ∧
    (decode w = .ok .init ↔ w &&& 0xFFFF = 0x0000) ∧
    ((∃ f d, decode w = .ok (.write f d)) ↔ w &&& 0xFE00 = 0x1000) ∧
    (decode w = .ok .txfree ↔ w &&& 0xFFFF = 0x2000) ∧
    (decode w = .ok .txidle ↔ w &&& 0xFFFF = 0x3000) ∧
    (decode w = .ok .tryread ↔ w &&& 0xFFFF = 0x4000) ∧
    (decode w = .ok .readb ↔ w &&& 0xFFFF = 0x5000) ∧
    (decode w = .ok .avail ↔ w &&& 0xFFFF = 0x6000) ∧
    ((∃ f, decode w = .ok (.txisr f)) ↔ w &&& 0xFEFF = 0x8000) ∧
    ((∃ e f d, decode w = .ok (.rxisr e f d)) ↔ w &&& 0xFC00 = 0x9000)

/-- Words written out bit by bit from R50 and R51 (vector V-E1) decode to what they stand for. -/
def Obligations.SpecWordsDecode : Prop :=
  decode 0b0000000000000000#16 = .ok .init ∧
  decode 0b0001000101000001#16 = .ok (.write true 0x41) ∧
  decode 0b0010000000000000#16 = .ok .txfree ∧
  decode 0b0100000000000000#16 = .ok .tryread ∧
  decode 0b1000000100000000#16 = .ok (.txisr true) ∧
  decode 0b1001001000010010#16 = .ok (.rxisr true false 0x12)

/-! ### The step -/

/-- The step performs the oldest item presented, in the state with the item taken: of a whole request it is `exec` of the
decoded operation; of a request split at a label `execUpto`, refused where the operation is atomic or the label is not of its
rule; of RESUME `resumeUpto`, refused with nothing in progress or where the label is not of the rule in progress; a
configuration before INIT is taken, with the offset registers at its width, and the same one after INIT changes nothing.
With nothing presented an idle Port stays as it is and an operation in progress performs one micro-step. How items are
presented is the model's choice (log entry 9); the refusals of a label and of RESUME are its reading (log entries 10, 13), and
so is the configuration supplied before INIT (log entries 6, 17). -/
def Obligations.StepPerformsTheRequest : Prop :=
  (∀ s agent w rest i, s.input = .request agent w none :: rest → decode w = .ok i →
    i.allowedFrom agent = true → step s = exec i { s with input := rest }) ∧
  (∀ s agent w l rest i, s.input = .request agent w (some l) :: rest → decode w = .ok i →
    i.allowedFrom agent = true → step s = execUpto i l { s with input := rest } ∧
    (i.labels = [] → step s = .refused .splitOfAtomic) ∧
    (i.labels ≠ [] → l ∉ i.labels → step s = .refused .foreignLabel)) ∧
  (∀ s upto rest, s.input = .resume upto :: rest →
    (s.upc = .idle → step s = .refused .nothingInProgress) ∧
    (s.upc ≠ .idle → (∀ l ∈ upto, l ∈ s.upc.labels) → step s = resumeUpto upto { s with input := rest }) ∧
    (s.upc ≠ .idle → ∀ l ∈ upto, l ∉ s.upc.labels → step s = .refused .foreignLabel)) ∧
  (∀ s c rest, s.input = .configure c :: rest →
    (s.inited = false → step s = .next { s with
      input := rest, cfg := c
      tx := { head := s.tx.head % 2 ^ c.w, tail := s.tx.tail % 2 ^ c.w, buf := s.tx.buf }
      rx := { head := s.rx.head % 2 ^ c.w, tail := s.rx.tail % 2 ^ c.w, buf := s.rx.buf } }) ∧
    (s.inited = true → c = s.cfg → step s = .next { s with input := rest })) ∧
  (∀ s, s.input = [] → s.upc = .idle → step s = .next s) ∧
  (∀ s, s.input = [] → s.upc.isIdle = false → step s = advance s)

/-- The word of every operation, presented by `withFetchWord`, is the very next thing the step performs. The Port fetches
nothing itself (R49); that a program is presented from outside is the model's choice (log entry 9). -/
def Obligations.FetchedWordIsPerformed : Prop :=
  ∀ (i : Instr) (s : State), decodeTableWord 16 (encode i).toNat = some i ∧
    step (s.withFetchWord 16 (encode i).toNat) = exec i s

/-- R128: an operation in the wrong context is refused: a mainline operation from a handler or the callback, a
handler operation from mainline, and a handler's operation from any other agent. -/
def Obligations.WrongContextIsRefused : Prop :=
  ∀ s agent w upto rest i, s.input = .request agent w upto :: rest → decode w = .ok i →
    (i.agent = .mainline → agent ≠ .mainline → step s = .refused .wrongContext) ∧
    (i.agent ≠ .mainline → agent = .mainline → step s = .refused .wrongContext) ∧
    (i.agent ≠ agent → step s = .refused .wrongContext)

/-- R134: before the first INIT every other operation is refused, whole or split, and no handler transition occurs. -/
def Obligations.OperationsBeforeInitAreRefused : Prop :=
  (∀ i s, s.cfg.legal = true → s.inited = false → i ≠ .init → exec i s = .refused .beforeInit) ∧
  (∀ s agent w upto rest i, s.inited = false → s.input = .request agent w upto :: rest → decode w = .ok i →
    i ≠ .init → ∃ r, step s = .refused r)

/-- Mainline operations do not overlap: one requested while another is in progress, INIT among them, is refused. -/
def Obligations.MainlineOperationsDoNotOverlap : Prop :=
  ∀ i s, s.cfg.legal = true → (s.inited = true ∨ i = .init) → i.agent = .mainline → s.upc.isIdle = false →
    exec i s = .refused .overlap

/-- R13, R14: a configuration outside the ranges makes every operation be refused; after INIT no step changes a parameter,
and an attempt is refused. -/
def Obligations.ConfigurationIsLegalAndConstant : Prop :=
  (∀ i s, s.cfg.legal = false → exec i s = .refused .configOutOfRange) ∧
  (∀ c : Cfg, c.legal = true ↔
    (2 ≤ c.nTx ∧ c.nTx ≤ 2 ^ c.w - 1) ∧ (2 ≤ c.nRx ∧ c.nRx ≤ 2 ^ c.w - 1) ∧ c.t ≤ 2 ^ c.w - 1) ∧
  (∀ s t, s.inited = true → step s = .next t → t.cfg = s.cfg) ∧
  (∀ s c rest, s.inited = true → s.input = .configure c :: rest → c ≠ s.cfg → step s = .refused .configChanged)

/-! ### INIT and reset -/

/-- R111: INIT, from whatever state it finds with no mainline operation in progress. -/
def Obligations.InitResetsThePort : Prop :=
  ∀ s, s.cfg.legal = true → s.upc = .idle →
    exec .init s = .next { s with
      tx := { head := 0, tail := 0, buf := s.tx.buf }
      rx := { head := 0, tail := 0, buf := s.rx.buf }
      rxie := true
      txie := false
      gate := if s.cfg.ctsPresent then .go else s.gate
      ctsPin := if s.cfg.ctsPresent then true ^^ s.cfg.ctsInvert else s.ctsPin
      trace := s.trace ++ .uartConfigure ::
        (if s.cfg.ctsPresent then [.ctsDrive (true ^^ s.cfg.ctsInvert)] else [])
      upc := .idle
      inited := true
      result := none }

/-- The reset state is what INIT leaves of a Port at power-on, whatever the power-on values were (R31, R133); without a
gate its register and pin keep theirs. That `State.reset` stands for the state after INIT is log entry 1. -/
def Obligations.ResetIsInitFromPowerOn : Prop :=
  ∀ (c : Cfg) (p : PowerOn), c.legal = true →
    (c.ctsPresent = true → exec .init (State.powerOn c p) = .next (State.resetWith c)) ∧
    (c.ctsPresent = false → exec .init (State.powerOn c p) =
      .next { State.resetWith c with gate := p.gate, ctsPin := p.ctsPin })

/-- INIT's frame: no slot of either store and no configuration register changes, nor a gate that does not exist; both
instances are empty with all their slots free, and a following TXFREE, TXIDLE and AVAIL say so (R111, R114). -/
def Obligations.InitEmptiesWithoutClearing : Prop :=
  ∀ s t, exec .init s = .next t →
    t.cfg = s.cfg ∧ t.draws = s.draws ∧ t.input = s.input ∧
    (s.cfg.ctsPresent = false → t.gate = s.gate ∧ t.ctsPin = s.ctsPin) ∧
    (∀ x o, t.slotByte x o = s.slotByte x o) ∧
    (∀ x, t.occupancy x = 0 ∧ t.freeSpace x = t.cap x ∧ t.empty x = true) ∧
    exec .txfree t = .next { t with result := some { flag := false, value := t.cfg.nTx } } ∧
    exec .txidle t = .next { t with result := some { flag := true, value := 0 } } ∧
    exec .avail t = .next { t with result := some { flag := false, value := 0 } }

/-! ### The offset arithmetic -/

/-- R66, R69, R70, R75: `next`, `occ` and `free` by cases on offsets in range, and the laws. -/
def Obligations.OffsetArithmeticLaws : Prop :=
  ∀ n h t, 2 ≤ n → h < n → t < n →
    nextOffset n h = (if h = n - 1 then 0 else h + 1) ∧ nextOffset n h < n ∧
    occ n h t = (if t ≤ h then h - t else n - t + h) ∧ occ n h t ≤ n - 1 ∧
    free n h t = n - occ n h t ∧ 1 ≤ free n h t ∧ free n h t ≤ n ∧
    occ n h t + free n h t = n ∧
    (occ n h t = 0 ↔ isEmpty h t = true) ∧
    (occ n h t = n - 1 ↔ isFull n h t = true) ∧
    (isFull n h t = false → occ n (nextOffset n h) t = occ n h t + 1) ∧
    (isEmpty h t = false → occ n h (nextOffset n t) + 1 = occ n h t)

/-! ### The transmit path -/

/-- R86, R87: on an empty instance with the hardware ready the byte goes straight to the UART; otherwise, on an instance
that is not full, it is stored at the head and the head advances. -/
def Obligations.WriteSendsOrQueuesTheByte : Prop :=
  (∀ s d, Ready s → s.tx.head = s.tx.tail →
    exec (.write true d) s = .next { s with
      txie := true
      trace := s.trace ++ [.txregWrite d]
      result := some { flag := false, value := d.toNat } }) ∧
  (∀ s f d, Ready s → s.tx.head < s.cfg.nTx → ¬ (s.tx.head = s.tx.tail ∧ f = true) →
    nextOffset s.cfg.nTx s.tx.head ≠ s.tx.tail →
    exec (.write f d) s = .next { s with
      tx := { head := nextOffset s.cfg.nTx s.tx.head, tail := s.tx.tail
              buf := Memory.set s.tx.buf s.tx.head d }
      txie := true
      result := some { flag := false, value := d.toNat } })

/-- R89: full under Discard: the sentinel, the occupancy unchanged, whether or not the hardware is ready; the decision
is made on the one reading of W4's first visit. -/
def Obligations.WriteDiscardsWhenFull : Prop :=
  (∀ s f d, Ready s → s.cfg.policy = .discard → nextOffset s.cfg.nTx s.tx.head = s.tx.tail →
    exec (.write f d) s = .next { s with
      txie := true
      trace := s.trace ++ [.note (.transmitOverflow d)]
      result := some { flag := false, value := 0x00 } }) ∧
  (∀ s d h t r, Armed s → s.cfg.policy = .discard → s.upc = .w4 d h t r none →
    nextOffset s.cfg.nTx h = s.tx.tail →
    ∃ t2 n, advance s = .next { s with
      trace := s.trace ++ [.note (.transmitOverflow d)], upc := .w7 d h t r (some (t2, n)) 0x00 })

/-- R88, R117: full under Block: the operation waits at W4, with TransmitOverflow recorded once however long it waits;
at the first visit that finds the instance not full it stores, commits and returns the byte. -/
def Obligations.WriteWaitsWhenFull : Prop :=
  (∀ s f d, Ready s → s.cfg.policy = .block → nextOffset s.cfg.nTx s.tx.head = s.tx.tail →
    exec (.write f d) s = .next { s with
      trace := s.trace ++ [.note (.transmitOverflow d)]
      upc := .w4 d s.tx.head s.tx.tail none (some (s.tx.tail, nextOffset s.cfg.nTx s.tx.head)) }) ∧
  (∀ s d h t r seen, Armed s → s.cfg.policy = .block → s.upc = .w4 d h t r (some seen) →
    nextOffset s.cfg.nTx h = s.tx.tail →
    resumeUpto none s = .next { s with upc := .w4 d h t r (some (s.tx.tail, nextOffset s.cfg.nTx h)) }) ∧
  (∀ s d h t r seen, Armed s → s.upc = .w4 d h t r seen → h < s.cfg.nTx →
    nextOffset s.cfg.nTx h ≠ s.tx.tail →
    resumeUpto none s = .next { s with
      tx := { head := nextOffset s.cfg.nTx h, tail := s.tx.tail, buf := Memory.set s.tx.buf h d }
      txie := true
      upc := .idle
      result := some { flag := false, value := d.toNat } })

/-- R86: the micro-program of WRITE, label by label; each is a point before which handlers may run. -/
def Obligations.WriteMicroProgram : Prop :=
  (∀ s f d, Ready s → execUpto (.write f d) .w0 s = .next { s with upc := .w1 d f s.tx.head }) ∧
  ∀ s, Armed s →
    (∀ d f, s.upc = .w0 d f → advance s = .next { s with upc := .w1 d f s.tx.head }) ∧
    (∀ d f h, s.upc = .w1 d f h → advance s = .next { s with
      upc := if h = s.tx.tail then .w2 d f h s.tx.tail else .w4 d h s.tx.tail none none }) ∧
    (∀ d f h t, s.upc = .w2 d f h t → advance s = .next { s with
      upc := if f then .w3 d h t true else .w4 d h t (some false) none }) ∧
    (∀ d h t r, s.upc = .w3 d h t r → advance s = .next { s with
      trace := s.trace ++ [.txregWrite d], upc := .w7 d h t (some r) none d }) ∧
    (∀ d h t r seen, s.upc = .w4 d h t r seen → nextOffset s.cfg.nTx h ≠ s.tx.tail →
      advance s = .next { s with upc := .w5 d h t r s.tx.tail (nextOffset s.cfg.nTx h) }) ∧
    (∀ d h t r seen, s.upc = .w4 d h t r seen → nextOffset s.cfg.nTx h = s.tx.tail →
      advance s = .next { s with
        trace := s.trace ++ (if seen = none then [.note (.transmitOverflow d)] else [])
        upc := if s.cfg.policy = .discard then
            .w7 d h t r (some (s.tx.tail, nextOffset s.cfg.nTx h)) 0x00
          else .w4 d h t r (some (s.tx.tail, nextOffset s.cfg.nTx h)) }) ∧
    (∀ d h t r t2 n, s.upc = .w5 d h t r t2 n → h < s.cfg.nTx → advance s = .next { s with
      tx := { s.tx with buf := Memory.set s.tx.buf h d }, upc := .w6 d h t r t2 n }) ∧
    (∀ d h t r t2 n, s.upc = .w6 d h t r t2 n → advance s = .next { s with
      tx := { s.tx with head := n }, upc := .w7 d h t r (some (t2, n)) d }) ∧
    (∀ d h t r seen ret, s.upc = .w7 d h t r seen ret → advance s = .next { s with
      txie := true, upc := .idle, result := some { flag := false, value := ret.toNat } })

/-- R90: every WRITE that completes ends by enabling the transmit-ready interrupt, on every path and however it was
split, and not before it has committed its byte: its last micro-step changes nothing else. -/
def Obligations.WriteAlwaysEnablesTheInterrupt : Prop :=
  (∀ s f d t, exec (.write f d) s = .next t → t.upc = .idle → t.txie = true) ∧
  (∀ s t, s.upc.inWrite = true → advance s = .next t → t.upc = .idle →
    t = { s with txie := true, upc := .idle, result := t.result })

/-- WRITE's frame. The one slot it stores to is the head, on the queued path alone. -/
def Obligations.WriteFrame : Prop :=
  ∀ s f d t, exec (.write f d) s = .next t →
    t.cfg = s.cfg ∧ t.rx = s.rx ∧ t.tx.tail = s.tx.tail ∧ t.gate = s.gate ∧ t.ctsPin = s.ctsPin ∧
    t.rxie = s.rxie ∧ t.inited = s.inited ∧ t.draws = s.draws ∧ t.input = s.input ∧
    (s.full .tx = true ∨ (s.empty .tx = true ∧ f = true) → t.tx = s.tx) ∧
    (∀ o, t.slotByte .rx o = s.slotByte .rx o) ∧
    (∀ o, o ≠ s.tx.head → t.slotByte .tx o = s.slotByte .tx o)

/-- R92: TXFREE returns the free space, from 1 to `N_TX`; a pop between its micro-steps is counted, so the result is
the free space when it completes. -/
def Obligations.TxfreeReportsFreeSpace : Prop :=
  (∀ s, Ready s → exec .txfree s = .next { s with
      result := some { flag := false, value := free s.cfg.nTx s.tx.head s.tx.tail } } ∧
    1 ≤ free s.cfg.nTx s.tx.head s.tx.tail ∧ free s.cfg.nTx s.tx.head s.tx.tail ≤ s.cfg.nTx) ∧
  (∀ s, Ready s → execUpto .txfree .f0 s = .next { s with upc := .f1 s.tx.head }) ∧
  (∀ s h, Armed s → Coherent s → s.upc = .f1 h → advance s = .next { s with
      upc := .idle, result := some { flag := false, value := s.freeSpace .tx } })

/-- R93: TXIDLE returns whether the transmit instance is empty. -/
def Obligations.TxidleReportsEmpty : Prop :=
  (∀ s, Ready s → exec .txidle s = .next { s with
      result := some { flag := decide (s.tx.head = s.tx.tail), value := 0 } }) ∧
  (∀ s, Ready s → execUpto .txidle .i0 s = .next { s with upc := .i1 s.tx.head }) ∧
  (∀ s h, Armed s → s.upc = .i1 h → advance s = .next { s with
      upc := .idle, result := some { flag := decide (h = s.tx.tail), value := 0 } })

/-- R94: the transmit handler: nothing unless the hardware is ready and TXIE is set; else one pop to the UART, or, on an
empty instance, TXIE cleared. -/
def Obligations.TxisrPopsOrDisables : Prop :=
  (∀ s f, Armed s → ¬ (f = true ∧ s.txie = true) → exec (.txisr f) s = .next s) ∧
  (∀ s, Armed s → s.txie = true → s.tx.head ≠ s.tx.tail → s.tx.tail < s.cfg.nTx →
    exec (.txisr true) s = .next { s with
      tx := { s.tx with tail := nextOffset s.cfg.nTx s.tx.tail }
      trace := s.trace ++ [.txregWrite (s.slotByte .tx s.tx.tail)] }) ∧
  (∀ s, Armed s → s.txie = true → s.tx.head = s.tx.tail → exec (.txisr true) s = .next { s with txie := false })

/-- TXISR's frame: it stores nothing and writes the tail, TXIE and the trace alone; `upc` and every latch stay (R125). -/
def Obligations.TxisrFrame : Prop :=
  ∀ s f t, exec (.txisr f) s = .next t →
    t = { s with tx := { s.tx with tail := t.tx.tail }, txie := t.txie, trace := t.trace } ∧
    ∀ x o, t.slotByte x o = s.slotByte x o

/-- The frame of the three queries: a result and nothing else. -/
def Obligations.QueryFrame : Prop :=
  ∀ i s t, i = .txfree ∨ i = .txidle ∨ i = .avail → exec i s = .next t →
    t = { s with result := t.result } ∧ ∀ x o, t.slotByte x o = s.slotByte x o

/-! ### The receive path -/

/-- R98: TRYREAD on an empty instance returns `found = false` and a byte nothing constrains (a free value), writes nothing
and does not touch the gate. The counter of draws is the model's own (log entry 3). -/
def Obligations.TryreadFindsNothing : Prop :=
  ∀ s, Ready s → s.rx.head = s.rx.tail →
    ∃ b : Byte, exec .tryread s = .next { s with
      draws := s.draws + 1, result := some { flag := false, value := b.toNat } }

/-- R96, R97: TRYREAD on an instance that is not empty returns the oldest byte, advances the tail, and opens a gate that is
Stop when the free space is back at the threshold. -/
def Obligations.TryreadPopsTheOldestByte : Prop :=
  ∀ s, Ready s → s.rx.head ≠ s.rx.tail → s.rx.tail < s.cfg.nRx →
    let tail' := nextOffset s.cfg.nRx s.rx.tail
    let opens := s.cfg.ctsPresent = true ∧ s.gate = .stop ∧ s.cfg.t ≤ free s.cfg.nRx s.rx.head tail'
    exec .tryread s = .next { s with
      rx := { s.rx with tail := tail' }
      gate := if opens then .go else s.gate
      ctsPin := if opens then true ^^ s.cfg.ctsInvert else s.ctsPin
      trace := s.trace ++ (if opens then [.ctsDrive (true ^^ s.cfg.ctsInvert)] else [])
      result := some { flag := true, value := (s.slotByte .rx s.rx.tail).toNat } }

/-- R99: READB does on an instance that is not empty what TRYREAD does; on an empty one it waits at T0 and has written
nothing. -/
def Obligations.ReadbRepeatsTryread : Prop :=
  (∀ s, Ready s → s.rx.head ≠ s.rx.tail → s.rx.tail < s.cfg.nRx →
    ∃ t, exec .readb s = .next t ∧ exec .tryread s = .next t ∧ t.upc = .idle ∧
      t.result = some { flag := true, value := (s.slotByte .rx s.rx.tail).toNat } ∧
      t.rx.tail = nextOffset s.cfg.nRx s.rx.tail) ∧
  (∀ s, Ready s → s.rx.head = s.rx.tail → exec .readb s = .next { s with upc := .t0 .readb }) ∧
  (∀ s, Armed s → s.upc = .t0 .readb → s.rx.head = s.rx.tail → resumeUpto none s = .next s)

/-- R85, R96, R97, R98, R99: the micro-program of TRYREAD and READB, label by label. That a TRYREAD which finds nothing
advances the model's own counter of draws, and a READB which finds nothing does not, is the model's choice (log entries 3 and
21). -/
def Obligations.ReadMicroProgram : Prop :=
  (∀ s, Ready s → execUpto .tryread .t0 s = .next { s with upc := .t1 .tryread s.rx.head } ∧
    execUpto .readb .t0 s = .next { s with upc := .t1 .readb s.rx.head }) ∧
  ∀ s op, Armed s →
    (s.upc = .t0 op → advance s = .next { s with upc := .t1 op s.rx.head }) ∧
    (∀ h, s.upc = .t1 op h → h ≠ s.rx.tail → advance s = .next { s with upc := .t2 op h s.rx.tail }) ∧
    (∀ h, s.upc = .t1 .tryread h → h = s.rx.tail → ∃ b : Byte, advance s = .next { s with
      upc := .idle, draws := s.draws + 1, result := some { flag := false, value := b.toNat } }) ∧
    (∀ h, s.upc = .t1 .readb h → h = s.rx.tail → advance s = .next { s with upc := .t0 .readb }) ∧
    (∀ h t, s.upc = .t2 op h t → t < s.cfg.nRx → advance s = .next { s with
      upc := .t3 op h t (s.slotByte .rx t) }) ∧
    (∀ h t b, s.upc = .t3 op h t b → s.cfg.ctsPresent = true → advance s = .next { s with
      rx := { s.rx with tail := nextOffset s.cfg.nRx t }, upc := .t4 op h t b }) ∧
    (∀ h t b, s.upc = .t3 op h t b → s.cfg.ctsPresent = false → advance s = .next { s with
      rx := { s.rx with tail := nextOffset s.cfg.nRx t }, upc := .idle
      result := some { flag := true, value := b.toNat } }) ∧
    (∀ h t b, s.upc = .t4 op h t b → advance s = .next { s with
      upc := .t5 op h t b s.rx.head (free s.cfg.nRx s.rx.head (nextOffset s.cfg.nRx t)) }) ∧
    (∀ h t b h2 f, s.upc = .t5 op h t b h2 f → s.gate = .stop → s.cfg.t ≤ f → advance s = .next { s with
      upc := .t6 op h t b h2 f .stop }) ∧
    (∀ h t b h2 f, s.upc = .t5 op h t b h2 f → ¬ (s.gate = .stop ∧ s.cfg.t ≤ f) → advance s = .next { s with
      upc := .idle, result := some { flag := true, value := b.toNat } }) ∧
    (∀ h t b h2 f g, s.upc = .t6 op h t b h2 f g → advance s = .next { s with
      gate := .go, ctsPin := true ^^ s.cfg.ctsInvert
      trace := s.trace ++ [.ctsDrive (true ^^ s.cfg.ctsInvert)]
      upc := .idle, result := some { flag := true, value := b.toNat } })

/-- The frame of TRYREAD and READB: they store nothing; the head stays, the tail is the old one or the next; the gate stays
or is opened. -/
def Obligations.ReadFrame : Prop :=
  ∀ i s t, i = .tryread ∨ i = .readb → exec i s = .next t →
    t.cfg = s.cfg ∧ t.tx = s.tx ∧ t.rx.head = s.rx.head ∧ t.txie = s.txie ∧ t.rxie = s.rxie ∧
    t.inited = s.inited ∧ t.input = s.input ∧
    (t.rx.tail = s.rx.tail ∨ t.rx.tail = nextOffset s.cfg.nRx s.rx.tail) ∧
    ((t.gate = s.gate ∧ t.ctsPin = s.ctsPin ∧ t.trace = s.trace) ∨ (s.cfg.ctsPresent = true ∧ t.gate = .go)) ∧
    ∀ x o, t.slotByte x o = s.slotByte x o

/-- R100: AVAIL returns whether the receive instance holds a byte; once true it stays true through every transition of
either handler but an error recovery. -/
def Obligations.AvailReportsNotEmpty : Prop :=
  (∀ s, Ready s → exec .avail s = .next { s with
      result := some { flag := decide (s.rx.head ≠ s.rx.tail), value := 0 } }) ∧
  (∀ s, Ready s → execUpto .avail .a0 s = .next { s with upc := .a1 s.rx.head }) ∧
  (∀ s h, Armed s → s.upc = .a1 h → advance s = .next { s with
      upc := .idle, result := some { flag := decide (h ≠ s.rx.tail), value := 0 } }) ∧
  (∀ i s t, (∃ f, i = .txisr f) ∨ (∃ e f d, i = .rxisr e f d ∧ classify e f ≠ .hardwareError) →
    exec i s = .next t → s.rx.head ≠ s.rx.tail → t.rx.head ≠ t.rx.tail)

/-- R102: with the flag clear RXISR is a no-op, whatever its error and data samples. -/
def Obligations.RxisrWithoutFlagDoesNothing : Prop :=
  ∀ s e d, Armed s → exec (.rxisr e false d) s = .next s

/-- R103, R108: a hardware error records the condition, flushes (at least one read, as many more as a free value says, and
on GEN_B the re-enable), empties the receive instance and opens the gate; the data sample does not matter. That the flush
advances the counter of draws, which is the model's own, is its choice (log entry 4). -/
def Obligations.RxisrErrorRecovers : Prop :=
  ∀ s d, Armed s → ∃ extra : Nat, exec (.rxisr true true d) s = .next { s with
    rx := { head := 0, tail := 0, buf := s.rx.buf }
    gate := if s.cfg.ctsPresent then .go else s.gate
    ctsPin := if s.cfg.ctsPresent then true ^^ s.cfg.ctsInvert else s.ctsPin
    trace := s.trace ++ [.note .receiveHardwareError] ++ List.replicate (extra + 1) .rxregRead
      ++ (if s.cfg.hwgen = .genB then [.rxReenable] else [])
      ++ (if s.cfg.ctsPresent then [.ctsDrive (true ^^ s.cfg.ctsInvert)] else [])
    draws := s.draws + 1 }

/-- R104 to R107, R84: data is stored at the head; the callback sees it before the full test; the head is committed, or
the byte dropped with ReceiveBufferOverflow; then the gate is closed if the free space is below the threshold. -/
def Obligations.RxisrStoresTheByte : Prop :=
  ∀ s d, Armed s → s.rx.head < s.cfg.nRx →
    let drops := nextOffset s.cfg.nRx s.rx.head = s.rx.tail
    let head' := if drops then s.rx.head else nextOffset s.cfg.nRx s.rx.head
    let closes := s.cfg.ctsPresent = true ∧ free s.cfg.nRx head' s.rx.tail < s.cfg.t
    exec (.rxisr false true d) s = .next { s with
      rx := { head := head', tail := s.rx.tail, buf := Memory.set s.rx.buf s.rx.head d }
      gate := if closes then .stop else s.gate
      ctsPin := if closes then false ^^ s.cfg.ctsInvert else s.ctsPin
      trace := s.trace ++ [.rxregRead] ++ (if s.cfg.callback then [.callback d] else [])
        ++ (if drops then [.note (.receiveBufferOverflow d)] else [])
        ++ (if closes then [.ctsDrive (false ^^ s.cfg.ctsInvert)] else []) }

/-- RXISR's frame: the transmit side, both enables, `upc` with every latch and the result stay (R125); the only slot it can
store to is the receive head, in case 3. -/
def Obligations.RxisrFrame : Prop :=
  ∀ s e f d t, exec (.rxisr e f d) s = .next t →
    t = { s with rx := t.rx, gate := t.gate, ctsPin := t.ctsPin, trace := t.trace, draws := t.draws } ∧
    (s.cfg.ctsPresent = false → t.gate = s.gate ∧ t.ctsPin = s.ctsPin) ∧
    (classify e f = .data → t.rx.tail = s.rx.tail ∧ t.draws = s.draws) ∧
    (∀ o, t.slotByte .tx o = s.slotByte .tx o) ∧
    (classify e f ≠ .data → ∀ o, t.slotByte .rx o = s.slotByte .rx o) ∧
    (∀ o, o ≠ s.rx.head → t.slotByte .rx o = s.slotByte .rx o)

/-- R54: an ignored field may hold any value: E and DATA with the flag clear, DATA with an error, F of a WRITE on an
instance that is not empty. -/
def Obligations.IgnoredFieldsHaveNoEffect : Prop :=
  (∀ s e e' d d', exec (.rxisr e false d) s = exec (.rxisr e' false d') s) ∧
  (∀ s d d', exec (.rxisr true true d) s = exec (.rxisr true true d') s) ∧
  (∀ s d, s.tx.head ≠ s.tx.tail → exec (.write false d) s = exec (.write true d) s)

/-! ### The gate -/

/-- R82: an insert never opens the gate and a remove never closes it; after a completed insert the gate is Stop if the
free space is below the threshold, after a completed remove it is Go if it is not. -/
def Obligations.GateMovesOneWayAtEachEnd : Prop :=
  (∀ s d t, exec (.rxisr false true d) s = .next t → (t.gate = s.gate ∨ t.gate = .stop) ∧
    (s.cfg.ctsPresent = true → t.freeSpace .rx < t.cfg.t → t.gate = .stop)) ∧
  (∀ i s t, i = .tryread ∨ i = .readb → exec i s = .next t → (t.gate = s.gate ∨ t.gate = .go) ∧
    (s.cfg.ctsPresent = true → t.rx.tail ≠ s.rx.tail → t.cfg.t ≤ t.freeSpace .rx → t.gate = .go))

/-- R23, R84: over all steps, the gate becomes Stop only by the data case of RXISR, and Go only by INIT, by the error case
of RXISR, or by the reading operation in progress or requested. -/
def Obligations.GateIsWrittenByItsOwnersOnly : Prop :=
  ∀ s t, Coherent s → step s = .next t → t.gate ≠ s.gate →
    s.cfg.ctsPresent = true ∧
    (t.gate = .stop → ∃ agent w upto rest d, s.input = .request agent w upto :: rest ∧
      decode w = .ok (.rxisr false true d)) ∧
    (t.gate = .go →
      (∃ agent w upto rest i, s.input = .request agent w upto :: rest ∧ decode w = .ok i ∧
        (i = .init ∨ i = .tryread ∨ i = .readb ∨ ∃ d, i = .rxisr true true d)) ∨
      Label.t0 ∈ s.upc.labels)

/-- R9, R77: without flow-control wiring the gate register does not exist: no operation depends on what the model holds in
its place, none writes it, and none drives the pin. -/
def Obligations.AbsentGateIsNeverUsed : Prop :=
  ∀ s i, s.cfg.ctsPresent = false →
    (∀ g p, exec i { s with gate := g, ctsPin := p } =
      mapNext (fun t => { t with gate := g, ctsPin := p }) (exec i s)) ∧
    (∀ t, exec i s = .next t → ∃ es : List Event, t.trace = s.trace ++ es ∧ ∀ l, Event.ctsDrive l ∉ es)

/-! ### Interrupts and contexts -/

/-- R25: over all steps, TXIE becomes 1 only by a WRITE in progress or requested, which it completes, and becomes 0 only by
INIT or by a TXISR that finds the transmit instance empty with the hardware ready. -/
def Obligations.TxieIsWrittenByItsOwnersOnly : Prop :=
  ∀ s t, step s = .next t →
    (s.txie = false → t.txie = true → t.upc = .idle ∧
      (s.upc.inWrite = true ∨ ∃ agent w upto rest f d, s.input = .request agent w upto :: rest ∧
        decode w = .ok (.write f d))) ∧
    (s.txie = true → t.txie = false → ∃ agent w upto rest i, s.input = .request agent w upto :: rest ∧
      decode w = .ok i ∧ (i = .init ∨ (i = .txisr true ∧ s.tx.head = s.tx.tail)))

/-- R26: RXIE is written by INIT, to 1, and by no other rule; it is never cleared. -/
def Obligations.RxieIsSetByInitAndNeverCleared : Prop :=
  (∀ s t, exec .init s = .next t → t.rxie = true) ∧
  (∀ s t, step s = .next t → t.rxie ≠ s.rxie → t.rxie = true ∧
    ∃ agent w upto rest, s.input = .request agent w upto :: rest ∧ decode w = .ok .init) ∧
  (∀ s t, step s = .next t → ReceiveInterruptEnabled s → ReceiveInterruptEnabled t)

/-- R43, R45: a micro-step of mainline writes neither the transmit tail, which is the transmit handler's, nor the receive
head and store, which are the receive handler's; an operation of one path writes nothing of the other; only a READ
writes the gate. -/
def Obligations.MainlineMicroStepFrame : Prop :=
  ∀ s t, advance s = .next t →
    t.tx.tail = s.tx.tail ∧ t.rx.head = s.rx.head ∧ t.rx.buf = s.rx.buf ∧ t.rxie = s.rxie ∧ t.cfg = s.cfg ∧
    t.inited = s.inited ∧ t.input = s.input ∧
    (s.upc.inWrite = false → t.tx = s.tx ∧ t.txie = s.txie) ∧
    (Label.t0 ∉ s.upc.labels → t.rx = s.rx ∧ t.gate = s.gate ∧ t.ctsPin = s.ctsPin) ∧
    (t.gate ≠ s.gate → s.upc.label = some .t6)

/-- R124: the two handlers touch disjoint state: in either order they leave the same state but for the order of the events
in the trace. -/
def Obligations.HandlersCommute : Prop :=
  ∀ s f e g d a b, exec (.txisr f) s = .next a → exec (.rxisr e g d) a = .next b →
    ∃ a' b', exec (.rxisr e g d) s = .next a' ∧ exec (.txisr f) a' = .next b' ∧
      { b with trace := [] } = { b' with trace := [] } ∧ b.trace.Perm b'.trace

/-- R64: the two instances are independent: an operation of one path neither reads nor writes the other instance. -/
def Obligations.InstancesAreIndependent : Prop :=
  (∀ i s q, (∃ f d, i = .write f d) ∨ i = .txfree ∨ i = .txidle ∨ (∃ f, i = .txisr f) →
    exec i { s with rx := q } = mapNext (fun t => { t with rx := q }) (exec i s)) ∧
  (∀ i s q, i = .tryread ∨ i = .readb ∨ i = .avail ∨ (∃ e f d, i = .rxisr e f d) →
    exec i { s with tx := q } = mapNext (fun t => { t with tx := q }) (exec i s))

/-- R62, R126: an operation split at any of its micro-steps and resumed with nothing between is the operation performed
whole; so is one split again while it is resumed. Resumed up to a label, an operation that stands at it performs that one
micro-step and stops; one that stands elsewhere performs one micro-step and, unless it has completed, goes on up to the
label. R62 speaks of a later micro-step: what RESUME up to a label does that the path has passed or never performs is the
model's reading (log entry 10). -/
def Obligations.SplitOperationEqualsWhole : Prop :=
  (∀ i l s s1, execUpto i l s = .next s1 →
    (s1.upc = .idle → exec i s = .next s1) ∧ (s1.upc ≠ .idle → resumeUpto none s1 = exec i s)) ∧
  (∀ l s s1, resumeUpto (some l) s = .next s1 →
    (s1.upc = .idle → resumeUpto none s = .next s1) ∧
    (s1.upc ≠ .idle → resumeUpto none s1 = resumeUpto none s)) ∧
  (∀ l s, s.upc.label = some l → resumeUpto (some l) s = advance s) ∧
  (∀ l s s1, s.upc.label ≠ some l → advance s = .next s1 →
    (s1.upc = .idle → resumeUpto (some l) s = .next s1) ∧
    (s1.upc ≠ .idle → resumeUpto (some l) s = resumeUpto (some l) s1))

/-- R129: in a coherent state every mainline operation but two completes; WRITE waits only under Block on a full instance,
READB only on an empty one. -/
def Obligations.OnlyWriteAndReadbWait : Prop :=
  ∀ i s, Ready s → Coherent s → i.agent = .mainline →
    ∃ t, exec i s = .next t ∧
      (t.upc ≠ .idle →
        ((∃ f d, i = .write f d) ∧ s.cfg.policy = .block ∧ s.full .tx = true ∧ t.upc.label = some .w4) ∨
        (i = .readb ∧ s.empty .rx = true ∧ t.upc = .t0 .readb))

/-- R88, R129: a WRITE waiting on a full instance is released by one eligible TXISR. -/
def Obligations.PopReleasesWaitingWrite : Prop :=
  ∀ s d h t r seen, Armed s → Coherent s → TransmitInterruptEnabled s → s.upc = .w4 d h t r seen →
    s.full .tx = true →
    ∃ a b, exec (.txisr true) s = .next a ∧ resumeUpto none a = .next b ∧ b.upc = .idle ∧
      b.result = some { flag := false, value := d.toNat } ∧ b.slotByte .tx h = d ∧
      b.occupancy .tx = s.occupancy .tx

/-- R99, R129: a READB waiting on an empty instance, at T0 or at T1, is released by one received byte, which it returns. -/
def Obligations.ByteReleasesWaitingReadb : Prop :=
  ∀ s d, Armed s → Coherent s → s.upc = .t0 .readb ∨ s.upc = .t1 .readb s.rx.head → s.empty .rx = true →
    ∃ a b, exec (.rxisr false true d) s = .next a ∧ resumeUpto none a = .next b ∧ b.upc = .idle ∧
      b.result = some { flag := true, value := d.toNat } ∧ b.empty .rx = true

/-! ### Hazards -/

/-- R139: error recovery inside TRYREAD or READB, at each point at which it can fall. Between T1 and T3 the tail is committed
over the handler's 0; between T0 and T1 a stale byte is returned and the tail is 1, or, where the head latched is 0 as well,
nothing is found; after T3 the offsets stay 0 and the gate Go. First of an operation split at a label; then of one in progress,
however it came there: a READB waiting since an earlier iteration among them. -/
def Obligations.ErrorRecoveryInsideTryread : Prop :=
  (∀ i s d, i = .tryread ∨ i = .readb → Ready s → Coherent s →
    (s.rx.head ≠ s.rx.tail → ∀ l, l = .t1 ∨ l = .t2 →
      ∃ s1 s2 s3, execUpto i l s = .next s1 ∧ exec (.rxisr true true d) s1 = .next s2 ∧
      s2.rx.head = 0 ∧ s2.rx.tail = 0 ∧ resumeUpto none s2 = .next s3 ∧ s3.upc = .idle ∧
      s3.rx.head = 0 ∧ s3.rx.tail = nextOffset s.cfg.nRx s.rx.tail ∧
      (s.cfg.ctsPresent = true → s3.gate = .go) ∧
      s3.result = some { flag := true, value := (s.slotByte .rx s.rx.tail).toNat }) ∧
    (s.rx.head ≠ 0 →
      ∃ s1 s2 s3, execUpto i .t0 s = .next s1 ∧ exec (.rxisr true true d) s1 = .next s2 ∧
      s2.rx.head = 0 ∧ s2.rx.tail = 0 ∧ resumeUpto none s2 = .next s3 ∧ s3.upc = .idle ∧
      s3.rx.head = 0 ∧ s3.rx.tail = 1 ∧ s3.full .rx = true ∧
      (s.cfg.ctsPresent = true → s3.gate = .go) ∧
      s3.result = some { flag := true, value := (s.slotByte .rx 0).toNat }) ∧
    (s.rx.head = 0 →
      ∃ s1 s2 s3, execUpto i .t0 s = .next s1 ∧ exec (.rxisr true true d) s1 = .next s2 ∧
      resumeUpto none s2 = .next s3 ∧ s3.rx.head = 0 ∧ s3.rx.tail = 0 ∧
      (s.cfg.ctsPresent = true → s3.gate = .go) ∧
      (i = .tryread → s3.upc = .idle ∧ ∃ v, s3.result = some { flag := false, value := v }) ∧
      (i = .readb → s3.upc = .t0 .readb)) ∧
    (s.rx.head ≠ s.rx.tail → s.cfg.ctsPresent = true → ∀ l,
      l = .t3 ∨ l = .t4 ∨ (l = .t5 ∧ s.gate = .stop ∧
        s.cfg.t ≤ free s.cfg.nRx s.rx.head (nextOffset s.cfg.nRx s.rx.tail)) →
      ∃ s1 s2 s3, execUpto i l s = .next s1 ∧ exec (.rxisr true true d) s1 = .next s2 ∧
      s2.rx.head = 0 ∧ s2.rx.tail = 0 ∧ s2.gate = .go ∧ resumeUpto none s2 = .next s3 ∧ s3.upc = .idle ∧
      s3.rx.head = 0 ∧ s3.rx.tail = 0 ∧ s3.gate = .go ∧
      s3.result = some { flag := true, value := (s.slotByte .rx s.rx.tail).toNat })) ∧
  ∀ s d, Armed s → Coherent s →
    ∃ s1, exec (.rxisr true true d) s = .next s1 ∧ s1.upc = s.upc ∧ s1.rx.head = 0 ∧ s1.rx.tail = 0 ∧
    (s.cfg.ctsPresent = true → s1.gate = .go) ∧
    (s.upc = .t0 .readb ∨ s.upc = .t1 .readb 0 → resumeUpto none s1 = .next { s1 with upc := .t0 .readb }) ∧
    (s.upc = .t0 .tryread ∨ s.upc = .t1 .tryread 0 → ∃ s2 v, resumeUpto none s1 = .next s2 ∧ s2.upc = .idle ∧
      s2.rx = s1.rx ∧ s2.gate = s1.gate ∧ s2.result = some { flag := false, value := v }) ∧
    (∀ op h, s.upc = .t1 op h → h ≠ 0 → ∃ s2, resumeUpto none s1 = .next s2 ∧ s2.upc = .idle ∧
      s2.rx.head = 0 ∧ s2.rx.tail = 1 ∧ s2.full .rx = true ∧ s2.gate = s1.gate ∧
      s2.result = some { flag := true, value := (s.slotByte .rx 0).toNat }) ∧
    (∀ op h t, s.upc = .t2 op h t → ∃ s2, resumeUpto none s1 = .next s2 ∧ s2.upc = .idle ∧
      s2.rx.head = 0 ∧ s2.rx.tail = nextOffset s.cfg.nRx t ∧ s2.gate = s1.gate ∧
      s2.result = some { flag := true, value := (s.slotByte .rx t).toNat }) ∧
    (∀ op h t b, s.upc = .t3 op h t b → ∃ s2, resumeUpto none s1 = .next s2 ∧ s2.upc = .idle ∧
      s2.rx.head = 0 ∧ s2.rx.tail = nextOffset s.cfg.nRx t ∧ s2.gate = s1.gate ∧
      s2.result = some { flag := true, value := b.toNat }) ∧
    (∀ op h t b, s.upc = .t4 op h t b ∨ (∃ h2 f, s.upc = .t5 op h t b h2 f) ∨ (∃ h2 f g, s.upc = .t6 op h t b h2 f g) →
      ∃ s2, resumeUpto none s1 = .next s2 ∧ s2.upc = .idle ∧ s2.rx.head = 0 ∧ s2.rx.tail = 0 ∧ s2.gate = .go ∧
      s2.result = some { flag := true, value := b.toNat })

/-- R140, R83: the stale gate write: a byte received between T4 and T6 of the TRYREAD that reaches the threshold closes the
gate, and T6 opens it although the free space is below the threshold. -/
def Obligations.StaleGateWrite : Prop :=
  ∀ s d, Ready s → Coherent s → s.cfg.ctsPresent = true → s.gate = .stop → s.rx.head ≠ s.rx.tail →
    s.freeSpace .rx + 1 = s.cfg.t →
    ∃ s1 s2 s3, execUpto .tryread .t4 s = .next s1 ∧ exec (.rxisr false true d) s1 = .next s2 ∧
      s2.gate = .stop ∧ resumeUpto none s2 = .next s3 ∧ s3.upc = .idle ∧ s3.gate = .go ∧
      s3.freeSpace .rx < s3.cfg.t

/-- R142, R145: a TXFREE above 1 guarantees that a WRITE is accepted: it completes, returns its byte and records no
overflow; at 1 it does not. -/
def Obligations.FreeSpaceAboveOneAdmitsAWrite : Prop :=
  ∀ s f d, Ready s → Coherent s →
    (1 < s.freeSpace .tx → ∃ t, exec (.write f d) s = .next t ∧ t.upc = .idle ∧
      t.result = some { flag := false, value := d.toNat } ∧
      (t.trace = s.trace ∨ t.trace = s.trace ++ [.txregWrite d])) ∧
    (s.freeSpace .tx = 1 → ∃ t, exec (.write f d) s = .next t ∧
      t.trace = s.trace ++ [.note (.transmitOverflow d)] ∧ t.tx = s.tx)

/-! ### FIFO order -/

/-- R74, R95: the bytes handed to the UART followed by the bytes queued are, operation by operation, what they were,
followed by the byte a WRITE accepts: nothing is reordered, duplicated or lost. So they are micro-step by micro-step, the byte
of a WRITE being handed over at W3 or at W6; and however a WRITE is split, waits and is resumed, what it has handed over and
what it has still to hand over are together its one byte, or nothing where it is discarded. -/
def Obligations.TransmitStreamIsConserved : Prop :=
  (∀ i s t, Coherent s → i ≠ .init → exec i s = .next t →
    t.sent ++ t.queued .tx = s.sent ++ s.queued .tx ++ acceptedByte i s) ∧
  (∀ s t, Coherent s → advance s = .next t →
    t.sent ++ t.queued .tx = s.sent ++ s.queued .tx ++ s.upc.handsOver) ∧
  (∀ upto s t, Coherent s → resumeUpto upto s = .next t →
    t.sent ++ t.queued .tx ++ t.owed = s.sent ++ s.queued .tx ++ s.owed) ∧
  (∀ i l u s t, Coherent s → startOf i = some u → execUpto i l s = .next t →
    t.sent ++ t.queued .tx ++ t.owed = s.sent ++ s.queued .tx ++ owedAt u s)

/-- R74, R98, R109: the receive queue gains at its end the byte an RXISR commits, loses from its front the byte a read
returns, is emptied by error recovery and otherwise stays; a read finds a byte exactly when one is queued. -/
def Obligations.ReceiveQueueIsFifo : Prop :=
  ∀ i s t, Coherent s → exec i s = .next t →
    (∀ e f d, i = .rxisr e f d → classify e f ≠ .hardwareError →
      t.queued .rx = s.queued .rx ++ committedByte i s) ∧
    (∀ d, i = .rxisr true true d → t.queued .rx = []) ∧
    (i = .tryread ∨ i = .readb →
      (s.queued .rx = [] ∧ t.queued .rx = [] ∧
        (i = .tryread → ∃ r, t.result = some r ∧ r.flag = false) ∧ (i = .readb → t.upc ≠ .idle)) ∨
      (∃ b, s.queued .rx = b :: t.queued .rx ∧ t.result = some { flag := true, value := b.toNat })) ∧
    (i = .avail → ∃ v, t.result = some { flag := !(s.queued .rx).isEmpty, value := v })

/-! ### Invariants -/

/-- Every step keeps a coherent state coherent: offset registers within their width at all times (R16); after INIT offsets,
slots and latches in range (R34, R65), the writer's latched head the head (R71). -/
def Obligations.StepKeepsCoherent : Prop :=
  ∀ s t, Coherent s → step s = .next t → Coherent t

/-- A Port at power-on and a Port after reset are coherent, and reset meets every invariant stated here. Which configuration
stands in `State.reset` is the model's choice (log entry 5). -/
def Obligations.ResetIsCoherent : Prop :=
  (∀ c p, Coherent (State.powerOn c p)) ∧
  (∀ c, c.legal = true → Coherent (State.resetWith c) ∧ PinFollowsGate (State.resetWith c) ∧
    ReceiveInterruptEnabled (State.resetWith c) ∧ TransmitInterruptEnabled (State.resetWith c) ∧
    MemoryCanonical (State.resetWith c) ∧ ResultFits (State.resetWith c)) ∧
  Cfg.standard.legal = true

/-- In a coherent state no step asks for a slot that does not exist (R34). -/
def Obligations.CoherentStepNeverFaults : Prop :=
  ∀ s, Coherent s → ∀ r, step s ≠ .fault r

/-- R24: after INIT the pin carries the gate, xor the polarity, at all times. -/
def Obligations.StepKeepsPinFollowingGate : Prop :=
  ∀ s t, PinFollowsGate s → step s = .next t → PinFollowsGate t

/-- R95: at every instant at which no WRITE is about to perform its last micro-step, a transmit instance that is not empty
has its interrupt enabled; in particular while a WRITE waits on a full one. -/
def Obligations.StepKeepsTransmitInterruptEnabled : Prop :=
  ∀ s t, TransmitInterruptEnabled s → step s = .next t → TransmitInterruptEnabled t

/-- Every step keeps both backing stores in their canonical form. -/
def Obligations.StepKeepsMemoryCanonical : Prop :=
  ∀ s t, MemoryCanonical s → step s = .next t → MemoryCanonical t

/-- R56: a result word's VALUE fits 8 bits, or `W` bits where `W > 8`. That the state holds the result is the model's choice
(log entry 7). -/
def Obligations.StepKeepsResultsInWidth : Prop :=
  ∀ s t, ResultFits s → step s = .next t → ResultFits t
end

