-- ==== Sys2Proof/Laws/Decode.lean ====
section
/-! SUPPORT. The fields of an assembled word, and that a word is what its fields assemble to. -/

namespace Sys2Proof

theorem assemble_toNat (op : BitVec 4) (e f : Bool) (data : Byte) :
    (assemble op e f data).toNat = 0x1000 * op.toNat + 0x200 * e.toNat + 0x100 * f.toNat + data.toNat := by
  have := op.isLt
  have := data.isLt
  have := Bool.toNat_lt e
  have := Bool.toNat_lt f
  simp only [assemble, BitVec.toNat_ofNat]
  omega

theorem fieldOP_toNat (w : OpWord) : (fieldOP w).toNat = w.toNat / 0x1000 % 16 := by
  simp [fieldOP, Nat.shiftRight_eq_div_pow]

theorem fieldZ_toNat (w : OpWord) : (fieldZ w).toNat = w.toNat / 0x400 % 4 := by
  simp [fieldZ, Nat.shiftRight_eq_div_pow]

theorem fieldDATA_toNat (w : OpWord) : (fieldDATA w).toNat = w.toNat % 256 := by
  simp [fieldDATA]

theorem fieldE_toNat (w : OpWord) : (fieldE w).toNat = w.toNat / 0x200 % 2 := by
  simp [fieldE, BitVec.getLsbD, Nat.testBit_eq_decide_div_mod_eq]
  rcases Nat.mod_two_eq_zero_or_one (w.toNat / 512) with h | h <;> simp [h]

theorem fieldF_toNat (w : OpWord) : (fieldF w).toNat = w.toNat / 0x100 % 2 := by
  simp [fieldF, BitVec.getLsbD, Nat.testBit_eq_decide_div_mod_eq]
  rcases Nat.mod_two_eq_zero_or_one (w.toNat / 256) with h | h <;> simp [h]

/-- A word with `Z = 0` is assembled from its fields: no bit is dropped. -/
theorem assemble_fields (w : OpWord) (hz : fieldZ w = 0) :
    assemble (fieldOP w) (fieldE w) (fieldF w) (fieldDATA w) = w := by
  have hz' : w.toNat / 0x400 % 4 = 0 := by rw [← fieldZ_toNat, hz]; rfl
  have := w.isLt
  apply BitVec.eq_of_toNat_eq
  rw [assemble_toNat, fieldOP_toNat, fieldE_toNat, fieldF_toNat, fieldDATA_toNat]
  omega

variable (op : BitVec 4) (e f : Bool) (data : Byte)

@[simp] theorem fieldOP_assemble : fieldOP (assemble op e f data) = op := by
  have := op.isLt
  have := data.isLt
  have := Bool.toNat_lt e
  have := Bool.toNat_lt f
  apply BitVec.eq_of_toNat_eq
  rw [fieldOP_toNat, assemble_toNat]
  omega

@[simp] theorem fieldZ_assemble : fieldZ (assemble op e f data) = 0 := by
  have := op.isLt
  have := data.isLt
  have := Bool.toNat_lt e
  have := Bool.toNat_lt f
  apply BitVec.eq_of_toNat_eq
  rw [fieldZ_toNat, assemble_toNat]
  show _ = 0
  omega

theorem Bool.eq_of_toNat_eq {a b : Bool} (h : a.toNat = b.toNat) : a = b := by
  revert h; cases a <;> cases b <;> decide

@[simp] theorem fieldE_assemble : fieldE (assemble op e f data) = e := by
  have := op.isLt
  have := data.isLt
  have := Bool.toNat_lt e
  have := Bool.toNat_lt f
  apply Bool.eq_of_toNat_eq
  rw [fieldE_toNat, assemble_toNat]
  omega

@[simp] theorem fieldF_assemble : fieldF (assemble op e f data) = f := by
  have := op.isLt
  have := data.isLt
  have := Bool.toNat_lt e
  have := Bool.toNat_lt f
  apply Bool.eq_of_toNat_eq
  rw [fieldF_toNat, assemble_toNat]
  omega

@[simp] theorem fieldDATA_assemble : fieldDATA (assemble op e f data) = data := by
  have := op.isLt
  have := data.isLt
  have := Bool.toNat_lt e
  have := Bool.toNat_lt f
  apply BitVec.eq_of_toNat_eq
  rw [fieldDATA_toNat, assemble_toNat]
  omega

/-- Decoding an assembled word selects the row of its fields. -/
theorem decode_assemble : decode (assemble op e f data) = decodeRow op e f data := by
  simp [decode]

end Sys2Proof
end

