-- ==== Sys2Proof/Laws/State.lean ====
section
/-! SUPPORT. One lemma per field per update: what each named operation leaves in every field of the state. -/

namespace Sys2Proof.Machine

/-! ### emit -/

@[simp] theorem emit_cfg (e : Event) (s : State) : (emit e s).cfg = s.cfg := rfl
@[simp] theorem emit_tx (e : Event) (s : State) : (emit e s).tx = s.tx := rfl
@[simp] theorem emit_rx (e : Event) (s : State) : (emit e s).rx = s.rx := rfl
@[simp] theorem emit_gate (e : Event) (s : State) : (emit e s).gate = s.gate := rfl
@[simp] theorem emit_ctsPin (e : Event) (s : State) : (emit e s).ctsPin = s.ctsPin := rfl
@[simp] theorem emit_txie (e : Event) (s : State) : (emit e s).txie = s.txie := rfl
@[simp] theorem emit_rxie (e : Event) (s : State) : (emit e s).rxie = s.rxie := rfl
@[simp] theorem emit_upc (e : Event) (s : State) : (emit e s).upc = s.upc := rfl
@[simp] theorem emit_inited (e : Event) (s : State) : (emit e s).inited = s.inited := rfl
@[simp] theorem emit_result (e : Event) (s : State) : (emit e s).result = s.result := rfl
@[simp] theorem emit_trace (e : Event) (s : State) : (emit e s).trace = s.trace ++ [e] := rfl
@[simp] theorem emit_draws (e : Event) (s : State) : (emit e s).draws = s.draws := rfl
@[simp] theorem emit_input (e : Event) (s : State) : (emit e s).input = s.input := rfl

/-! ### raise -/

@[simp] theorem raise_cfg (c : Condition) (s : State) : (raise c s).cfg = s.cfg := rfl
@[simp] theorem raise_tx (c : Condition) (s : State) : (raise c s).tx = s.tx := rfl
@[simp] theorem raise_rx (c : Condition) (s : State) : (raise c s).rx = s.rx := rfl
@[simp] theorem raise_gate (c : Condition) (s : State) : (raise c s).gate = s.gate := rfl
@[simp] theorem raise_ctsPin (c : Condition) (s : State) : (raise c s).ctsPin = s.ctsPin := rfl
@[simp] theorem raise_txie (c : Condition) (s : State) : (raise c s).txie = s.txie := rfl
@[simp] theorem raise_rxie (c : Condition) (s : State) : (raise c s).rxie = s.rxie := rfl
@[simp] theorem raise_upc (c : Condition) (s : State) : (raise c s).upc = s.upc := rfl
@[simp] theorem raise_inited (c : Condition) (s : State) : (raise c s).inited = s.inited := rfl
@[simp] theorem raise_result (c : Condition) (s : State) : (raise c s).result = s.result := rfl
@[simp] theorem raise_trace (c : Condition) (s : State) : (raise c s).trace = s.trace ++ [.note c] := rfl
@[simp] theorem raise_draws (c : Condition) (s : State) : (raise c s).draws = s.draws := rfl
@[simp] theorem raise_input (c : Condition) (s : State) : (raise c s).input = s.input := rfl

/-! ### writeGate -/

@[simp] theorem writeGate_cfg (g : Gate) (s : State) : (writeGate g s).cfg = s.cfg := rfl
@[simp] theorem writeGate_tx (g : Gate) (s : State) : (writeGate g s).tx = s.tx := rfl
@[simp] theorem writeGate_rx (g : Gate) (s : State) : (writeGate g s).rx = s.rx := rfl
@[simp] theorem writeGate_gate (g : Gate) (s : State) : (writeGate g s).gate = g := rfl
@[simp] theorem writeGate_ctsPin (g : Gate) (s : State) : (writeGate g s).ctsPin = pinLevel s.cfg g := rfl
@[simp] theorem writeGate_txie (g : Gate) (s : State) : (writeGate g s).txie = s.txie := rfl
@[simp] theorem writeGate_rxie (g : Gate) (s : State) : (writeGate g s).rxie = s.rxie := rfl
@[simp] theorem writeGate_upc (g : Gate) (s : State) : (writeGate g s).upc = s.upc := rfl
@[simp] theorem writeGate_inited (g : Gate) (s : State) : (writeGate g s).inited = s.inited := rfl
@[simp] theorem writeGate_result (g : Gate) (s : State) : (writeGate g s).result = s.result := rfl
@[simp] theorem writeGate_trace (g : Gate) (s : State) : (writeGate g s).trace = s.trace ++ [.ctsDrive (pinLevel s.cfg g)] := rfl
@[simp] theorem writeGate_draws (g : Gate) (s : State) : (writeGate g s).draws = s.draws := rfl
@[simp] theorem writeGate_input (g : Gate) (s : State) : (writeGate g s).input = s.input := rfl

/-! ### complete -/

@[simp] theorem complete_cfg (r : Option Result) (s : State) : (complete r s).cfg = s.cfg := rfl
@[simp] theorem complete_tx (r : Option Result) (s : State) : (complete r s).tx = s.tx := rfl
@[simp] theorem complete_rx (r : Option Result) (s : State) : (complete r s).rx = s.rx := rfl
@[simp] theorem complete_gate (r : Option Result) (s : State) : (complete r s).gate = s.gate := rfl
@[simp] theorem complete_ctsPin (r : Option Result) (s : State) : (complete r s).ctsPin = s.ctsPin := rfl
@[simp] theorem complete_txie (r : Option Result) (s : State) : (complete r s).txie = s.txie := rfl
@[simp] theorem complete_rxie (r : Option Result) (s : State) : (complete r s).rxie = s.rxie := rfl
@[simp] theorem complete_upc (r : Option Result) (s : State) : (complete r s).upc = .idle := rfl
@[simp] theorem complete_inited (r : Option Result) (s : State) : (complete r s).inited = s.inited := rfl
@[simp] theorem complete_result (r : Option Result) (s : State) : (complete r s).result = r := rfl
@[simp] theorem complete_trace (r : Option Result) (s : State) : (complete r s).trace = s.trace := rfl
@[simp] theorem complete_draws (r : Option Result) (s : State) : (complete r s).draws = s.draws := rfl
@[simp] theorem complete_input (r : Option Result) (s : State) : (complete r s).input = s.input := rfl

/-! ### goTo -/

@[simp] theorem goTo_cfg (u : Upc) (s : State) : (goTo u s).cfg = s.cfg := rfl
@[simp] theorem goTo_tx (u : Upc) (s : State) : (goTo u s).tx = s.tx := rfl
@[simp] theorem goTo_rx (u : Upc) (s : State) : (goTo u s).rx = s.rx := rfl
@[simp] theorem goTo_gate (u : Upc) (s : State) : (goTo u s).gate = s.gate := rfl
@[simp] theorem goTo_ctsPin (u : Upc) (s : State) : (goTo u s).ctsPin = s.ctsPin := rfl
@[simp] theorem goTo_txie (u : Upc) (s : State) : (goTo u s).txie = s.txie := rfl
@[simp] theorem goTo_rxie (u : Upc) (s : State) : (goTo u s).rxie = s.rxie := rfl
@[simp] theorem goTo_upc (u : Upc) (s : State) : (goTo u s).upc = u := rfl
@[simp] theorem goTo_inited (u : Upc) (s : State) : (goTo u s).inited = s.inited := rfl
@[simp] theorem goTo_result (u : Upc) (s : State) : (goTo u s).result = s.result := rfl
@[simp] theorem goTo_trace (u : Upc) (s : State) : (goTo u s).trace = s.trace := rfl
@[simp] theorem goTo_draws (u : Upc) (s : State) : (goTo u s).draws = s.draws := rfl
@[simp] theorem goTo_input (u : Upc) (s : State) : (goTo u s).input = s.input := rfl

/-! ### writeTxie -/

@[simp] theorem writeTxie_cfg (v : Bool) (s : State) : (writeTxie v s).cfg = s.cfg := rfl
@[simp] theorem writeTxie_tx (v : Bool) (s : State) : (writeTxie v s).tx = s.tx := rfl
@[simp] theorem writeTxie_rx (v : Bool) (s : State) : (writeTxie v s).rx = s.rx := rfl
@[simp] theorem writeTxie_gate (v : Bool) (s : State) : (writeTxie v s).gate = s.gate := rfl
@[simp] theorem writeTxie_ctsPin (v : Bool) (s : State) : (writeTxie v s).ctsPin = s.ctsPin := rfl
@[simp] theorem writeTxie_txie (v : Bool) (s : State) : (writeTxie v s).txie = v := rfl
@[simp] theorem writeTxie_rxie (v : Bool) (s : State) : (writeTxie v s).rxie = s.rxie := rfl
@[simp] theorem writeTxie_upc (v : Bool) (s : State) : (writeTxie v s).upc = s.upc := rfl
@[simp] theorem writeTxie_inited (v : Bool) (s : State) : (writeTxie v s).inited = s.inited := rfl
@[simp] theorem writeTxie_result (v : Bool) (s : State) : (writeTxie v s).result = s.result := rfl
@[simp] theorem writeTxie_trace (v : Bool) (s : State) : (writeTxie v s).trace = s.trace := rfl
@[simp] theorem writeTxie_draws (v : Bool) (s : State) : (writeTxie v s).draws = s.draws := rfl
@[simp] theorem writeTxie_input (v : Bool) (s : State) : (writeTxie v s).input = s.input := rfl

/-! ### writeRxie -/

@[simp] theorem writeRxie_cfg (v : Bool) (s : State) : (writeRxie v s).cfg = s.cfg := rfl
@[simp] theorem writeRxie_tx (v : Bool) (s : State) : (writeRxie v s).tx = s.tx := rfl
@[simp] theorem writeRxie_rx (v : Bool) (s : State) : (writeRxie v s).rx = s.rx := rfl
@[simp] theorem writeRxie_gate (v : Bool) (s : State) : (writeRxie v s).gate = s.gate := rfl
@[simp] theorem writeRxie_ctsPin (v : Bool) (s : State) : (writeRxie v s).ctsPin = s.ctsPin := rfl
@[simp] theorem writeRxie_txie (v : Bool) (s : State) : (writeRxie v s).txie = s.txie := rfl
@[simp] theorem writeRxie_rxie (v : Bool) (s : State) : (writeRxie v s).rxie = v := rfl
@[simp] theorem writeRxie_upc (v : Bool) (s : State) : (writeRxie v s).upc = s.upc := rfl
@[simp] theorem writeRxie_inited (v : Bool) (s : State) : (writeRxie v s).inited = s.inited := rfl
@[simp] theorem writeRxie_result (v : Bool) (s : State) : (writeRxie v s).result = s.result := rfl
@[simp] theorem writeRxie_trace (v : Bool) (s : State) : (writeRxie v s).trace = s.trace := rfl
@[simp] theorem writeRxie_draws (v : Bool) (s : State) : (writeRxie v s).draws = s.draws := rfl
@[simp] theorem writeRxie_input (v : Bool) (s : State) : (writeRxie v s).input = s.input := rfl

/-! ### setFifo, tx instance -/

@[simp] theorem setFifo_tx_cfg (q : Fifo) (s : State) : (s.setFifo .tx q).cfg = s.cfg := rfl
@[simp] theorem setFifo_tx_tx (q : Fifo) (s : State) : (s.setFifo .tx q).tx = q := rfl
@[simp] theorem setFifo_tx_rx (q : Fifo) (s : State) : (s.setFifo .tx q).rx = s.rx := rfl
@[simp] theorem setFifo_tx_gate (q : Fifo) (s : State) : (s.setFifo .tx q).gate = s.gate := rfl
@[simp] theorem setFifo_tx_ctsPin (q : Fifo) (s : State) : (s.setFifo .tx q).ctsPin = s.ctsPin := rfl
@[simp] theorem setFifo_tx_txie (q : Fifo) (s : State) : (s.setFifo .tx q).txie = s.txie := rfl
@[simp] theorem setFifo_tx_rxie (q : Fifo) (s : State) : (s.setFifo .tx q).rxie = s.rxie := rfl
@[simp] theorem setFifo_tx_upc (q : Fifo) (s : State) : (s.setFifo .tx q).upc = s.upc := rfl
@[simp] theorem setFifo_tx_inited (q : Fifo) (s : State) : (s.setFifo .tx q).inited = s.inited := rfl
@[simp] theorem setFifo_tx_result (q : Fifo) (s : State) : (s.setFifo .tx q).result = s.result := rfl
@[simp] theorem setFifo_tx_trace (q : Fifo) (s : State) : (s.setFifo .tx q).trace = s.trace := rfl
@[simp] theorem setFifo_tx_draws (q : Fifo) (s : State) : (s.setFifo .tx q).draws = s.draws := rfl
@[simp] theorem setFifo_tx_input (q : Fifo) (s : State) : (s.setFifo .tx q).input = s.input := rfl

/-! ### writeHead, tx instance -/

@[simp] theorem writeHead_tx_cfg (v : Nat) (s : State) : (writeHead .tx v s).cfg = s.cfg := rfl
@[simp] theorem writeHead_tx_tx (v : Nat) (s : State) : (writeHead .tx v s).tx = { s.tx with head := v } := rfl
@[simp] theorem writeHead_tx_rx (v : Nat) (s : State) : (writeHead .tx v s).rx = s.rx := rfl
@[simp] theorem writeHead_tx_gate (v : Nat) (s : State) : (writeHead .tx v s).gate = s.gate := rfl
@[simp] theorem writeHead_tx_ctsPin (v : Nat) (s : State) : (writeHead .tx v s).ctsPin = s.ctsPin := rfl
@[simp] theorem writeHead_tx_txie (v : Nat) (s : State) : (writeHead .tx v s).txie = s.txie := rfl
@[simp] theorem writeHead_tx_rxie (v : Nat) (s : State) : (writeHead .tx v s).rxie = s.rxie := rfl
@[simp] theorem writeHead_tx_upc (v : Nat) (s : State) : (writeHead .tx v s).upc = s.upc := rfl
@[simp] theorem writeHead_tx_inited (v : Nat) (s : State) : (writeHead .tx v s).inited = s.inited := rfl
@[simp] theorem writeHead_tx_result (v : Nat) (s : State) : (writeHead .tx v s).result = s.result := rfl
@[simp] theorem writeHead_tx_trace (v : Nat) (s : State) : (writeHead .tx v s).trace = s.trace := rfl
@[simp] theorem writeHead_tx_draws (v : Nat) (s : State) : (writeHead .tx v s).draws = s.draws := rfl
@[simp] theorem writeHead_tx_input (v : Nat) (s : State) : (writeHead .tx v s).input = s.input := rfl

/-! ### writeTail, tx instance -/

@[simp] theorem writeTail_tx_cfg (v : Nat) (s : State) : (writeTail .tx v s).cfg = s.cfg := rfl
@[simp] theorem writeTail_tx_tx (v : Nat) (s : State) : (writeTail .tx v s).tx = { s.tx with tail := v } := rfl
@[simp] theorem writeTail_tx_rx (v : Nat) (s : State) : (writeTail .tx v s).rx = s.rx := rfl
@[simp] theorem writeTail_tx_gate (v : Nat) (s : State) : (writeTail .tx v s).gate = s.gate := rfl
@[simp] theorem writeTail_tx_ctsPin (v : Nat) (s : State) : (writeTail .tx v s).ctsPin = s.ctsPin := rfl
@[simp] theorem writeTail_tx_txie (v : Nat) (s : State) : (writeTail .tx v s).txie = s.txie := rfl
@[simp] theorem writeTail_tx_rxie (v : Nat) (s : State) : (writeTail .tx v s).rxie = s.rxie := rfl
@[simp] theorem writeTail_tx_upc (v : Nat) (s : State) : (writeTail .tx v s).upc = s.upc := rfl
@[simp] theorem writeTail_tx_inited (v : Nat) (s : State) : (writeTail .tx v s).inited = s.inited := rfl
@[simp] theorem writeTail_tx_result (v : Nat) (s : State) : (writeTail .tx v s).result = s.result := rfl
@[simp] theorem writeTail_tx_trace (v : Nat) (s : State) : (writeTail .tx v s).trace = s.trace := rfl
@[simp] theorem writeTail_tx_draws (v : Nat) (s : State) : (writeTail .tx v s).draws = s.draws := rfl
@[simp] theorem writeTail_tx_input (v : Nat) (s : State) : (writeTail .tx v s).input = s.input := rfl

/-! ### resetStep, tx instance -/

@[simp] theorem resetStep_tx_cfg  (s : State) : (resetStep .tx s).cfg = s.cfg := rfl
@[simp] theorem resetStep_tx_tx  (s : State) : (resetStep .tx s).tx = { s.tx with head := 0, tail := 0 } := rfl
@[simp] theorem resetStep_tx_rx  (s : State) : (resetStep .tx s).rx = s.rx := rfl
@[simp] theorem resetStep_tx_gate  (s : State) : (resetStep .tx s).gate = s.gate := rfl
@[simp] theorem resetStep_tx_ctsPin  (s : State) : (resetStep .tx s).ctsPin = s.ctsPin := rfl
@[simp] theorem resetStep_tx_txie  (s : State) : (resetStep .tx s).txie = s.txie := rfl
@[simp] theorem resetStep_tx_rxie  (s : State) : (resetStep .tx s).rxie = s.rxie := rfl
@[simp] theorem resetStep_tx_upc  (s : State) : (resetStep .tx s).upc = s.upc := rfl
@[simp] theorem resetStep_tx_inited  (s : State) : (resetStep .tx s).inited = s.inited := rfl
@[simp] theorem resetStep_tx_result  (s : State) : (resetStep .tx s).result = s.result := rfl
@[simp] theorem resetStep_tx_trace  (s : State) : (resetStep .tx s).trace = s.trace := rfl
@[simp] theorem resetStep_tx_draws  (s : State) : (resetStep .tx s).draws = s.draws := rfl
@[simp] theorem resetStep_tx_input  (s : State) : (resetStep .tx s).input = s.input := rfl

/-! ### setFifo, rx instance -/

@[simp] theorem setFifo_rx_cfg (q : Fifo) (s : State) : (s.setFifo .rx q).cfg = s.cfg := rfl
@[simp] theorem setFifo_rx_tx (q : Fifo) (s : State) : (s.setFifo .rx q).tx = s.tx := rfl
@[simp] theorem setFifo_rx_rx (q : Fifo) (s : State) : (s.setFifo .rx q).rx = q := rfl
@[simp] theorem setFifo_rx_gate (q : Fifo) (s : State) : (s.setFifo .rx q).gate = s.gate := rfl
@[simp] theorem setFifo_rx_ctsPin (q : Fifo) (s : State) : (s.setFifo .rx q).ctsPin = s.ctsPin := rfl
@[simp] theorem setFifo_rx_txie (q : Fifo) (s : State) : (s.setFifo .rx q).txie = s.txie := rfl
@[simp] theorem setFifo_rx_rxie (q : Fifo) (s : State) : (s.setFifo .rx q).rxie = s.rxie := rfl
@[simp] theorem setFifo_rx_upc (q : Fifo) (s : State) : (s.setFifo .rx q).upc = s.upc := rfl
@[simp] theorem setFifo_rx_inited (q : Fifo) (s : State) : (s.setFifo .rx q).inited = s.inited := rfl
@[simp] theorem setFifo_rx_result (q : Fifo) (s : State) : (s.setFifo .rx q).result = s.result := rfl
@[simp] theorem setFifo_rx_trace (q : Fifo) (s : State) : (s.setFifo .rx q).trace = s.trace := rfl
@[simp] theorem setFifo_rx_draws (q : Fifo) (s : State) : (s.setFifo .rx q).draws = s.draws := rfl
@[simp] theorem setFifo_rx_input (q : Fifo) (s : State) : (s.setFifo .rx q).input = s.input := rfl

/-! ### writeHead, rx instance -/

@[simp] theorem writeHead_rx_cfg (v : Nat) (s : State) : (writeHead .rx v s).cfg = s.cfg := rfl
@[simp] theorem writeHead_rx_tx (v : Nat) (s : State) : (writeHead .rx v s).tx = s.tx := rfl
@[simp] theorem writeHead_rx_rx (v : Nat) (s : State) : (writeHead .rx v s).rx = { s.rx with head := v } := rfl
@[simp] theorem writeHead_rx_gate (v : Nat) (s : State) : (writeHead .rx v s).gate = s.gate := rfl
@[simp] theorem writeHead_rx_ctsPin (v : Nat) (s : State) : (writeHead .rx v s).ctsPin = s.ctsPin := rfl
@[simp] theorem writeHead_rx_txie (v : Nat) (s : State) : (writeHead .rx v s).txie = s.txie := rfl
@[simp] theorem writeHead_rx_rxie (v : Nat) (s : State) : (writeHead .rx v s).rxie = s.rxie := rfl
@[simp] theorem writeHead_rx_upc (v : Nat) (s : State) : (writeHead .rx v s).upc = s.upc := rfl
@[simp] theorem writeHead_rx_inited (v : Nat) (s : State) : (writeHead .rx v s).inited = s.inited := rfl
@[simp] theorem writeHead_rx_result (v : Nat) (s : State) : (writeHead .rx v s).result = s.result := rfl
@[simp] theorem writeHead_rx_trace (v : Nat) (s : State) : (writeHead .rx v s).trace = s.trace := rfl
@[simp] theorem writeHead_rx_draws (v : Nat) (s : State) : (writeHead .rx v s).draws = s.draws := rfl
@[simp] theorem writeHead_rx_input (v : Nat) (s : State) : (writeHead .rx v s).input = s.input := rfl

/-! ### writeTail, rx instance -/

@[simp] theorem writeTail_rx_cfg (v : Nat) (s : State) : (writeTail .rx v s).cfg = s.cfg := rfl
@[simp] theorem writeTail_rx_tx (v : Nat) (s : State) : (writeTail .rx v s).tx = s.tx := rfl
@[simp] theorem writeTail_rx_rx (v : Nat) (s : State) : (writeTail .rx v s).rx = { s.rx with tail := v } := rfl
@[simp] theorem writeTail_rx_gate (v : Nat) (s : State) : (writeTail .rx v s).gate = s.gate := rfl
@[simp] theorem writeTail_rx_ctsPin (v : Nat) (s : State) : (writeTail .rx v s).ctsPin = s.ctsPin := rfl
@[simp] theorem writeTail_rx_txie (v : Nat) (s : State) : (writeTail .rx v s).txie = s.txie := rfl
@[simp] theorem writeTail_rx_rxie (v : Nat) (s : State) : (writeTail .rx v s).rxie = s.rxie := rfl
@[simp] theorem writeTail_rx_upc (v : Nat) (s : State) : (writeTail .rx v s).upc = s.upc := rfl
@[simp] theorem writeTail_rx_inited (v : Nat) (s : State) : (writeTail .rx v s).inited = s.inited := rfl
@[simp] theorem writeTail_rx_result (v : Nat) (s : State) : (writeTail .rx v s).result = s.result := rfl
@[simp] theorem writeTail_rx_trace (v : Nat) (s : State) : (writeTail .rx v s).trace = s.trace := rfl
@[simp] theorem writeTail_rx_draws (v : Nat) (s : State) : (writeTail .rx v s).draws = s.draws := rfl
@[simp] theorem writeTail_rx_input (v : Nat) (s : State) : (writeTail .rx v s).input = s.input := rfl

/-! ### resetStep, rx instance -/

@[simp] theorem resetStep_rx_cfg  (s : State) : (resetStep .rx s).cfg = s.cfg := rfl
@[simp] theorem resetStep_rx_tx  (s : State) : (resetStep .rx s).tx = s.tx := rfl
@[simp] theorem resetStep_rx_rx  (s : State) : (resetStep .rx s).rx = { s.rx with head := 0, tail := 0 } := rfl
@[simp] theorem resetStep_rx_gate  (s : State) : (resetStep .rx s).gate = s.gate := rfl
@[simp] theorem resetStep_rx_ctsPin  (s : State) : (resetStep .rx s).ctsPin = s.ctsPin := rfl
@[simp] theorem resetStep_rx_txie  (s : State) : (resetStep .rx s).txie = s.txie := rfl
@[simp] theorem resetStep_rx_rxie  (s : State) : (resetStep .rx s).rxie = s.rxie := rfl
@[simp] theorem resetStep_rx_upc  (s : State) : (resetStep .rx s).upc = s.upc := rfl
@[simp] theorem resetStep_rx_inited  (s : State) : (resetStep .rx s).inited = s.inited := rfl
@[simp] theorem resetStep_rx_result  (s : State) : (resetStep .rx s).result = s.result := rfl
@[simp] theorem resetStep_rx_trace  (s : State) : (resetStep .rx s).trace = s.trace := rfl
@[simp] theorem resetStep_rx_draws  (s : State) : (resetStep .rx s).draws = s.draws := rfl
@[simp] theorem resetStep_rx_input  (s : State) : (resetStep .rx s).input = s.input := rfl

/-! ### flush and drawByte -/

@[simp] theorem flush_cfg (s : State) : (flush s).cfg = s.cfg := rfl
@[simp] theorem flush_tx (s : State) : (flush s).tx = s.tx := rfl
@[simp] theorem flush_rx (s : State) : (flush s).rx = s.rx := rfl
@[simp] theorem flush_gate (s : State) : (flush s).gate = s.gate := rfl
@[simp] theorem flush_ctsPin (s : State) : (flush s).ctsPin = s.ctsPin := rfl
@[simp] theorem flush_txie (s : State) : (flush s).txie = s.txie := rfl
@[simp] theorem flush_rxie (s : State) : (flush s).rxie = s.rxie := rfl
@[simp] theorem flush_upc (s : State) : (flush s).upc = s.upc := rfl
@[simp] theorem flush_inited (s : State) : (flush s).inited = s.inited := rfl
@[simp] theorem flush_result (s : State) : (flush s).result = s.result := rfl
@[simp] theorem flush_draws (s : State) : (flush s).draws = s.draws + 1 := rfl
@[simp] theorem flush_input (s : State) : (flush s).input = s.input := rfl
@[simp] theorem drawByte_cfg (s : State) : (drawByte s).2.cfg = s.cfg := rfl
@[simp] theorem drawByte_tx (s : State) : (drawByte s).2.tx = s.tx := rfl
@[simp] theorem drawByte_rx (s : State) : (drawByte s).2.rx = s.rx := rfl
@[simp] theorem drawByte_gate (s : State) : (drawByte s).2.gate = s.gate := rfl
@[simp] theorem drawByte_ctsPin (s : State) : (drawByte s).2.ctsPin = s.ctsPin := rfl
@[simp] theorem drawByte_txie (s : State) : (drawByte s).2.txie = s.txie := rfl
@[simp] theorem drawByte_rxie (s : State) : (drawByte s).2.rxie = s.rxie := rfl
@[simp] theorem drawByte_upc (s : State) : (drawByte s).2.upc = s.upc := rfl
@[simp] theorem drawByte_inited (s : State) : (drawByte s).2.inited = s.inited := rfl
@[simp] theorem drawByte_result (s : State) : (drawByte s).2.result = s.result := rfl
@[simp] theorem drawByte_trace (s : State) : (drawByte s).2.trace = s.trace := rfl
@[simp] theorem drawByte_draws (s : State) : (drawByte s).2.draws = s.draws + 1 := rfl
@[simp] theorem drawByte_input (s : State) : (drawByte s).2.input = s.input := rfl
@[simp] theorem drawByte_byte (s : State) : (drawByte s).1 = Config.unfoundByte s.draws := rfl

/-! ### Views of an instance -/

@[simp] theorem fifo_tx (s : State) : s.fifo .tx = s.tx := rfl
@[simp] theorem fifo_rx (s : State) : s.fifo .rx = s.rx := rfl
@[simp] theorem cap_tx (s : State) : s.cap .tx = s.cfg.nTx := rfl
@[simp] theorem cap_rx (s : State) : s.cap .rx = s.cfg.nRx := rfl
@[simp] theorem empty_tx (s : State) : s.empty .tx = isEmpty s.tx.head s.tx.tail := rfl
@[simp] theorem empty_rx (s : State) : s.empty .rx = isEmpty s.rx.head s.rx.tail := rfl
@[simp] theorem full_tx (s : State) : s.full .tx = isFull s.cfg.nTx s.tx.head s.tx.tail := rfl
@[simp] theorem full_rx (s : State) : s.full .rx = isFull s.cfg.nRx s.rx.head s.rx.tail := rfl
@[simp] theorem next_tx (s : State) (o : Nat) : s.next .tx o = nextOffset s.cfg.nTx o := rfl
@[simp] theorem next_rx (s : State) (o : Nat) : s.next .rx o = nextOffset s.cfg.nRx o := rfl
@[simp] theorem freeSpace_tx (s : State) : s.freeSpace .tx = free s.cfg.nTx s.tx.head s.tx.tail := rfl
@[simp] theorem freeSpace_rx (s : State) : s.freeSpace .rx = free s.cfg.nRx s.rx.head s.rx.tail := rfl
@[simp] theorem store_head (q : Fifo) (o : Nat) (v : Byte) : (q.store o v).head = q.head := rfl
@[simp] theorem store_tail (q : Fifo) (o : Nat) (v : Byte) : (q.store o v).tail = q.tail := rfl
@[simp] theorem store_buf (q : Fifo) (o : Nat) (v : Byte) : (q.store o v).buf = Memory.set q.buf o v := rfl

/-! ### Fifo.fit -/

@[simp] theorem fit_head (w : Nat) (q : Fifo) : (q.fit w).head = q.head % 2 ^ w := rfl
@[simp] theorem fit_tail (w : Nat) (q : Fifo) : (q.fit w).tail = q.tail % 2 ^ w := rfl
@[simp] theorem fit_buf (w : Nat) (q : Fifo) : (q.fit w).buf = q.buf := rfl

/-- What fits its registers is what they hold. -/
theorem fit_of_lt {w : Nat} {q : Fifo} (hh : q.head < 2 ^ w) (ht : q.tail < 2 ^ w) : q.fit w = q := by
  cases q
  simp_all [Fifo.fit, Nat.mod_eq_of_lt]

theorem fit_head_lt (w : Nat) (q : Fifo) : (q.fit w).head < 2 ^ w := Nat.mod_lt _ (Nat.two_pow_pos w)
theorem fit_tail_lt (w : Nat) (q : Fifo) : (q.fit w).tail < 2 ^ w := Nat.mod_lt _ (Nat.two_pow_pos w)

end Sys2Proof.Machine
end

