-- ==== Sys2Proof/Laws/Memory.lean ====
section
/-! SUPPORT. The laws of a backing store: read after write, and that every memory operation keeps the canonical form. -/

namespace Sys2Proof.Machine

/-- A read after a write to the same slot gives the value written. -/
@[simp] theorem Memory.get?_set_same (m : Memory) (o : Nat) (v : Byte) :
    Memory.get? (Memory.set m o v) o = some v := by
  induction m with
  | nil => simp [Memory.set, Memory.get?]
  | cons c m ih =>
    obtain ⟨a, b⟩ := c
    simp only [Memory.set]
    split
    · simp [Memory.get?]
    · split
      · simp [Memory.get?]
      · next h1 h2 => simp [Memory.get?, Ne.symm h2, ih]

/-- A write leaves every other slot alone. -/
theorem Memory.get?_set_other (m : Memory) {o p : Nat} (v : Byte) (h : o ≠ p) :
    Memory.get? (Memory.set m o v) p = Memory.get? m p := by
  induction m with
  | nil => simp [Memory.set, Memory.get?, h]
  | cons c m ih =>
    obtain ⟨a, b⟩ := c
    simp only [Memory.set]
    split
    · simp [Memory.get?, h]
    · split
      · next h1 h2 => subst h2; simp [Memory.get?, h]
      · simp only [Memory.get?, ih]

/-- The offsets of the store after a write: the old ones and the one written. -/
theorem Memory.mem_set {m : Memory} {o : Nat} {v : Byte} {c : Host.Cell}
    (h : c ∈ Memory.set m o v) : c = (o, v) ∨ c ∈ m := by
  induction m with
  | nil => simpa [Memory.set] using h
  | cons d m ih =>
    obtain ⟨a, b⟩ := d
    simp only [Memory.set] at h
    split at h
    · simpa using h
    · split at h
      · rcases List.mem_cons.mp h with h | h
        · exact .inl h
        · exact .inr (List.mem_cons_of_mem _ h)
      · rcases List.mem_cons.mp h with h | h
        · exact .inr (h ▸ List.mem_cons_self ..)
        · exact (ih h).imp_right (List.mem_cons_of_mem _)

/-- The canonical form as a statement about the first entry and the rest. -/
theorem Memory.wf_cons (a : Nat) (b : Byte) (m : Memory) :
    Memory.wf ((a, b) :: m) = true ↔ (∀ c ∈ m, a < c.1) ∧ Memory.wf m = true := by
  induction m generalizing a b with
  | nil => simp [Memory.wf]
  | cons c m ih =>
    obtain ⟨d, e⟩ := c
    have step : Memory.wf ((a, b) :: (d, e) :: m) = true ↔ a < d ∧ Memory.wf ((d, e) :: m) = true := by
      simp [Memory.wf]
    rw [step, ih]
    constructor
    · rintro ⟨hlt, hall, hwf⟩
      refine ⟨fun c hc => ?_, hall, hwf⟩
      rcases List.mem_cons.mp hc with rfl | hc
      · exact hlt
      · exact hlt.trans (hall c hc)
    · rintro ⟨hall, hrest, hwf⟩
      exact ⟨hall (d, e) (List.mem_cons_self ..), hrest, hwf⟩

/-- A write keeps the canonical form. -/
theorem Memory.wf_set (m : Memory) (o : Nat) (v : Byte) (h : Memory.wf m = true) :
    Memory.wf (Memory.set m o v) = true := by
  induction m with
  | nil => rfl
  | cons c m ih =>
    obtain ⟨a, b⟩ := c
    obtain ⟨hall, hwf⟩ := (Memory.wf_cons a b m).mp h
    simp only [Memory.set]
    split
    · next hlt =>
      refine (Memory.wf_cons ..).mpr ⟨fun c hc => ?_, h⟩
      rcases List.mem_cons.mp hc with rfl | hc
      · exact hlt
      · exact hlt.trans (hall c hc)
    · split
      · next _ heq => exact (Memory.wf_cons ..).mpr ⟨heq ▸ hall, hwf⟩
      · next hge hne =>
        refine (Memory.wf_cons ..).mpr ⟨fun c hc => ?_, ih hwf⟩
        rcases Memory.mem_set hc with rfl | hc
        · show a < o
          omega
        · exact hall c hc

/-- The byte of a slot after the transmit instance has been replaced by one that stores there. -/
@[simp] theorem slotByte_store_tx (s : State) (o p : Nat) (v : Byte) :
    (s.setFifo .tx (s.tx.store o v)).slotByte .tx p = if o = p then v else s.slotByte .tx p := by
  by_cases h : o = p
  · simp [State.slotByte, h]
  · simp [State.slotByte, h, Memory.get?_set_other _ _ h]

/-- The byte of a slot after the receive instance has been replaced by one that stores there. -/
@[simp] theorem slotByte_store_rx (s : State) (o p : Nat) (v : Byte) :
    (s.setFifo .rx (s.rx.store o v)).slotByte .rx p = if o = p then v else s.slotByte .rx p := by
  by_cases h : o = p
  · simp [State.slotByte, h]
  · simp [State.slotByte, h, Memory.get?_set_other _ _ h]

/-- The bytes of `X` depend on its backing store alone. -/
theorem slotByte_congr {s t : State} {x : Side} (h : (t.fifo x).buf = (s.fifo x).buf) (o : Nat) :
    t.slotByte x o = s.slotByte x o := by
  simp [State.slotByte, h]

/-! The bytes of both stores stay through every operation that writes none. -/

@[simp] theorem slotByte_emit (e : Event) (s : State) (x : Side) (o : Nat) :
    (emit e s).slotByte x o = s.slotByte x o := by cases x <;> rfl
@[simp] theorem slotByte_raise (c : Condition) (s : State) (x : Side) (o : Nat) :
    (raise c s).slotByte x o = s.slotByte x o := by cases x <;> rfl
@[simp] theorem slotByte_writeGate (g : Gate) (s : State) (x : Side) (o : Nat) :
    (writeGate g s).slotByte x o = s.slotByte x o := by cases x <;> rfl
@[simp] theorem slotByte_complete (r : Option Result) (s : State) (x : Side) (o : Nat) :
    (complete r s).slotByte x o = s.slotByte x o := by cases x <;> rfl
@[simp] theorem slotByte_goTo (u : Upc) (s : State) (x : Side) (o : Nat) :
    (goTo u s).slotByte x o = s.slotByte x o := by cases x <;> rfl
@[simp] theorem slotByte_writeTxie (v : Bool) (s : State) (x : Side) (o : Nat) :
    (writeTxie v s).slotByte x o = s.slotByte x o := by cases x <;> rfl
@[simp] theorem slotByte_writeRxie (v : Bool) (s : State) (x : Side) (o : Nat) :
    (writeRxie v s).slotByte x o = s.slotByte x o := by cases x <;> rfl
@[simp] theorem slotByte_writeHead (y : Side) (v : Nat) (s : State) (x : Side) (o : Nat) :
    (writeHead y v s).slotByte x o = s.slotByte x o := by cases x <;> cases y <;> rfl
@[simp] theorem slotByte_writeTail (y : Side) (v : Nat) (s : State) (x : Side) (o : Nat) :
    (writeTail y v s).slotByte x o = s.slotByte x o := by cases x <;> cases y <;> rfl
@[simp] theorem slotByte_resetStep (y : Side) (s : State) (x : Side) (o : Nat) :
    (resetStep y s).slotByte x o = s.slotByte x o := by cases x <;> cases y <;> rfl
@[simp] theorem slotByte_flush (s : State) (x : Side) (o : Nat) :
    (flush s).slotByte x o = s.slotByte x o := by cases x <;> rfl
@[simp] theorem slotByte_drawByte (s : State) (x : Side) (o : Nat) :
    (drawByte s).2.slotByte x o = s.slotByte x o := by cases x <;> rfl
@[simp] theorem slotByte_setFifo_tx (q : Fifo) (s : State) (o : Nat) :
    (s.setFifo .tx q).slotByte .rx o = s.slotByte .rx o := rfl
@[simp] theorem slotByte_setFifo_rx (q : Fifo) (s : State) (o : Nat) :
    (s.setFifo .rx q).slotByte .tx o = s.slotByte .tx o := rfl

/-- What a write that answers does: the slot exists, and the instance stores the byte. -/
theorem memWrite_ok {x : Side} {o : Nat} {v : Byte} {s t : State} (h : memWrite x o v s = .ok t) :
    o < s.cap x ∧ t = s.setFifo x ((s.fifo x).store o v) := by
  unfold memWrite at h
  split at h
  · next hlt => exact ⟨hlt, by simpa using h.symm⟩
  · simp at h

/-- A write to a slot that exists answers. -/
theorem memWrite_of_lt {x : Side} {o : Nat} (v : Byte) {s : State} (h : o < s.cap x) :
    memWrite x o v s = .ok (s.setFifo x ((s.fifo x).store o v)) := by
  simp [memWrite, h]

/-- What a read that answers gives: the slot exists, and it is its byte. -/
theorem memRead_ok {x : Side} {o : Nat} {s : State} {b : Byte} (h : memRead x o s = .ok b) :
    o < s.cap x ∧ b = s.slotByte x o := by
  unfold memRead at h
  split at h
  · next hlt => exact ⟨hlt, by simpa using h.symm⟩
  · simp at h

/-- A read of a slot that exists answers. -/
theorem memRead_of_lt {x : Side} {o : Nat} {s : State} (h : o < s.cap x) :
    memRead x o s = .ok (s.slotByte x o) := by
  simp [memRead, h]

/-- What a pop that answers does (R72): the byte at the tail, and the tail advanced. -/
theorem popStep_ok {x : Side} {s t : State} {b : Byte} (h : popStep x s = .ok (b, t)) :
    (s.fifo x).tail < s.cap x ∧ b = s.slotByte x (s.fifo x).tail ∧
      t = writeTail x (s.next x (s.fifo x).tail) s := by
  unfold popStep at h
  split at h
  · next hr =>
    obtain ⟨hlt, rfl⟩ := memRead_ok hr
    simp only [Except.ok.injEq, Prod.mk.injEq] at h
    exact ⟨hlt, h.1.symm, h.2.symm⟩
  · simp at h

/-- A pop of a slot that exists answers. -/
theorem popStep_of_lt {x : Side} {s : State} (h : (s.fifo x).tail < s.cap x) :
    popStep x s = .ok (s.slotByte x (s.fifo x).tail, writeTail x (s.next x (s.fifo x).tail) s) := by
  simp [popStep, memRead_of_lt h]

/-- Reset memory has the canonical form. -/
theorem reset_memory_wf : Memory.wf State.reset.tx.buf = true ∧ Memory.wf State.reset.rx.buf = true :=
  ⟨rfl, rfl⟩

end Sys2Proof.Machine
end

