-- ==== Sys2Proof/Laws/Offsets.lean ====
section
/-! SUPPORT. The offset arithmetic (40_circular_buffer.md section 2): the closed forms of `next`, `occ` and `free` on
offsets in range, and the comparisons as propositions. -/

namespace Sys2Proof.Machine

@[simp] theorem isEmpty_eq_true (h t : Nat) : isEmpty h t = true ↔ h = t := by simp [isEmpty]

@[simp] theorem isEmpty_eq_false (h t : Nat) : isEmpty h t = false ↔ h ≠ t := by simp [isEmpty]

@[simp] theorem isFull_eq_true (n h t : Nat) : isFull n h t = true ↔ nextOffset n h = t := by simp [isFull]

@[simp] theorem isFull_eq_false (n h t : Nat) : isFull n h t = false ↔ nextOffset n h ≠ t := by simp [isFull]

@[simp] theorem below_eq_true (n t h tl : Nat) : below n t h tl = true ↔ free n h tl < t := by simp [below]

/-- `next` stays in range. -/
theorem nextOffset_lt {n : Nat} (o : Nat) (h : 0 < n) : nextOffset n o < n := Nat.mod_lt _ h

/-- `next` by cases (R66). -/
theorem nextOffset_of_lt {n o : Nat} (h : o < n) : nextOffset n o = if o + 1 = n then 0 else o + 1 := by
  unfold nextOffset
  split
  · next heq => rw [heq, Nat.mod_self]
  · next hne => exact Nat.mod_eq_of_lt (by omega)

/-- `next` is injective on `[0, N)`. -/
theorem nextOffset_inj {n a b : Nat} (ha : a < n) (hb : b < n) (h : nextOffset n a = nextOffset n b) : a = b := by
  rw [nextOffset_of_lt ha, nextOffset_of_lt hb] at h
  split at h <;> split at h <;> omega

/-- `occ` by cases (R69). -/
theorem occ_of_lt {n h t : Nat} (hh : h < n) (ht : t < n) : occ n h t = if t ≤ h then h - t else n - t + h := by
  unfold occ
  split
  · next hle => rw [Int.emod_eq_of_lt (by omega) (by omega)]; omega
  · next hgt =>
    rw [show (h : Int) - t = (n - t + h : Int) - n by ring, Int.sub_emod_right,
      Int.emod_eq_of_lt (by omega) (by omega)]
    omega

/-- An instance whose offsets are equal holds nothing. -/
@[simp] theorem occ_self (n h : Nat) : occ n h h = 0 := by simp [occ]

/-- `occ` lies in `[0, N - 1]`. -/
theorem occ_lt {n : Nat} (h t : Nat) (hn : 0 < n) : occ n h t < n := by
  unfold occ
  have := Int.emod_nonneg ((h : Int) - t) (b := (n : Int)) (by omega)
  have := Int.emod_lt_of_pos ((h : Int) - t) (b := (n : Int)) (by omega)
  omega

/-- `free` is never 0 and at most `N` (R70). -/
theorem free_range {n : Nat} (h t : Nat) (hn : 0 < n) : 1 ≤ free n h t ∧ free n h t ≤ n := by
  have := occ_lt h t hn
  unfold free
  omega

/-- What a legal configuration says (R13). -/
theorem legal_iff (c : Cfg) : c.legal = true ↔
    2 ≤ c.nTx ∧ c.nTx ≤ 2 ^ c.w - 1 ∧ 2 ≤ c.nRx ∧ c.nRx ≤ 2 ^ c.w - 1 ∧ c.t ≤ 2 ^ c.w - 1 := by
  simp [Cfg.legal]

/-- With two slots or more, an instance is not at once empty and full. -/
theorem not_full_of_empty {n h : Nat} (hn : 2 ≤ n) : nextOffset n h ≠ h := by
  unfold nextOffset
  intro heq
  have hlt : h < n := heq ▸ Nat.mod_lt _ (by omega)
  have := nextOffset_of_lt hlt
  unfold nextOffset at this
  split at this <;> omega

end Sys2Proof.Machine
end

