-- ==== Sys2Proof/Laws/Sequencer.lean ====
section
/-! SUPPORT. What the micro-sequencer can do: when operations are blocked, what one micro-step leaves alone, and the
induction over a run of micro-steps. -/

namespace Sys2Proof.Machine

/-! ### When an operation is blocked -/

/-- Nothing blocks a handler or RESUME exactly when the Port is armed. -/
theorem blocked_eq_none (s : State) : blocked s = none ↔ Armed s := by
  unfold blocked Armed
  cases s.cfg.legal <;> cases s.inited <;> simp

@[simp] theorem blocked_of_armed {s : State} (h : Armed s) : blocked s = none := (blocked_eq_none s).mpr h

@[simp] theorem isIdle_iff (u : Upc) : u.isIdle = true ↔ u = .idle := by
  cases u <;> simp [Upc.isIdle, Upc.label]

@[simp] theorem isIdle_false_iff (u : Upc) : u.isIdle = false ↔ u ≠ .idle := by
  cases u <;> simp [Upc.isIdle, Upc.label]

/-- Nothing blocks a mainline operation exactly when the Port is ready. -/
theorem blockedMainline_eq_none (s : State) : blockedMainline s = none ↔ Ready s := by
  unfold blockedMainline
  cases hb : blocked s with
  | none =>
    have ha := (blocked_eq_none s).mp hb
    simp [Armed, ha.1, ha.2]
  | some r =>
    have ha : ¬ Armed s := fun h => by simp [blocked_of_armed h] at hb
    simp only [reduceCtorEq, false_iff]
    exact fun h => ha h.1

@[simp] theorem blockedMainline_of_ready {s : State} (h : Ready s) : blockedMainline s = none :=
  (blockedMainline_eq_none s).mpr h

/-- Nothing blocks INIT exactly when the configuration is legal and no mainline operation is in progress. -/
theorem blockedInit_eq_none (s : State) : blockedInit s = none ↔ s.cfg.legal = true ∧ s.upc = .idle := by
  unfold blockedInit
  cases s.cfg.legal <;> cases hi : s.upc.isIdle <;> simp_all

/-! ### One micro-step -/

/-- The state a micro-step leaves, none where it faults. -/
def Progress.state? : Progress → Option State
  | .onward s => some s
  | .waiting s => some s
  | .done s => some s
  | .fault _ => none

@[simp] theorem state?_onward (s : State) : (Progress.onward s).state? = some s := rfl
@[simp] theorem state?_waiting (s : State) : (Progress.waiting s).state? = some s := rfl
@[simp] theorem state?_done (s : State) : (Progress.done s).state? = some s := rfl
@[simp] theorem state?_fault (r : Fault) : (Progress.fault r).state? = none := rfl

/-- Everything one micro-step can do: one case for each way out of each label, with what the label tested. -/
inductive MicroCase (s : State) : State → Prop where
  | idle (hu : s.upc = .idle) : MicroCase s s
  | w0 {d f} (hu : s.upc = .w0 d f) : MicroCase s (goTo (.w1 d f s.tx.head) s)
  | w1Empty {d f h} (hu : s.upc = .w1 d f h) (he : h = s.tx.tail) : MicroCase s (goTo (.w2 d f h s.tx.tail) s)
  | w1Queue {d f h} (hu : s.upc = .w1 d f h) (he : h ≠ s.tx.tail) :
      MicroCase s (goTo (.w4 d h s.tx.tail none none) s)
  | w2Ready {d h t} (hu : s.upc = .w2 d true h t) : MicroCase s (goTo (.w3 d h t true) s)
  | w2Busy {d h t} (hu : s.upc = .w2 d false h t) : MicroCase s (goTo (.w4 d h t (some false) none) s)
  | w3 {d h t r} (hu : s.upc = .w3 d h t r) :
      MicroCase s (goTo (.w7 d h t (some r) none d) (emit (.txregWrite d) s))
  | w4Discard {d h t r seen} (hu : s.upc = .w4 d h t r seen) (hf : nextOffset s.cfg.nTx h = s.tx.tail)
      (hp : s.cfg.policy = .discard) :
      MicroCase s (goTo (.w7 d h t r (some (s.tx.tail, s.next .tx h)) sentinel) (noteOverflowOnce d seen s))
  | w4Wait {d h t r seen} (hu : s.upc = .w4 d h t r seen) (hf : nextOffset s.cfg.nTx h = s.tx.tail)
      (hp : s.cfg.policy = .block) :
      MicroCase s (goTo (.w4 d h t r (some (s.tx.tail, s.next .tx h))) (noteOverflowOnce d seen s))
  | w4Room {d h t r seen} (hu : s.upc = .w4 d h t r seen) (hf : nextOffset s.cfg.nTx h ≠ s.tx.tail) :
      MicroCase s (goTo (.w5 d h t r s.tx.tail (s.next .tx h)) s)
  | w5 {d h t r t2 n} (hu : s.upc = .w5 d h t r t2 n) (hh : h < s.cfg.nTx) :
      MicroCase s (goTo (.w6 d h t r t2 n) (s.setFifo .tx (s.tx.store h d)))
  | w6 {d h t r t2 n} (hu : s.upc = .w6 d h t r t2 n) :
      MicroCase s (goTo (.w7 d h t r (some (t2, n)) d) (writeHead .tx n s))
  | w7 {d h t r seen ret} (hu : s.upc = .w7 d h t r seen ret) :
      MicroCase s (complete (some (byteResult ret)) (writeTxie true s))
  | f0 (hu : s.upc = .f0) : MicroCase s (goTo (.f1 s.tx.head) s)
  | f1 {h} (hu : s.upc = .f1 h) : MicroCase s (complete (some (countResult (free s.cfg.nTx h s.tx.tail))) s)
  | i0 (hu : s.upc = .i0) : MicroCase s (goTo (.i1 s.tx.head) s)
  | i1 {h} (hu : s.upc = .i1 h) : MicroCase s (complete (some (boolResult (isEmpty h s.tx.tail))) s)
  | t0 {op} (hu : s.upc = .t0 op) : MicroCase s (goTo (.t1 op s.rx.head) s)
  | t1Found {op h} (hu : s.upc = .t1 op h) (he : h ≠ s.rx.tail) : MicroCase s (goTo (.t2 op h s.rx.tail) s)
  | t1None {h} (hu : s.upc = .t1 .tryread h) (he : h = s.rx.tail) :
      MicroCase s (complete (some (readResult (drawByte s).1 false)) (drawByte s).2)
  | t1Wait {h} (hu : s.upc = .t1 .readb h) (he : h = s.rx.tail) : MicroCase s (goTo (.t0 .readb) s)
  | t2 {op h t} (hu : s.upc = .t2 op h t) (ht : t < s.cfg.nRx) :
      MicroCase s (goTo (.t3 op h t (s.slotByte .rx t)) s)
  | t3 {op h t b} (hu : s.upc = .t3 op h t b) (hc : s.cfg.ctsPresent = true) :
      MicroCase s (goTo (.t4 op h t b) (writeTail .rx (s.next .rx t) s))
  | t3Last {op h t b} (hu : s.upc = .t3 op h t b) (hc : s.cfg.ctsPresent = false) :
      MicroCase s (complete (some (readResult b true)) (writeTail .rx (s.next .rx t) s))
  | t4 {op h t b} (hu : s.upc = .t4 op h t b) :
      MicroCase s (goTo (.t5 op h t b s.rx.head (openingFree s t s.rx.head)) s)
  | t5 {op h t b h2 f} (hu : s.upc = .t5 op h t b h2 f) (hr : reopens s f s.gate = true) :
      MicroCase s (goTo (.t6 op h t b h2 f s.gate) s)
  | t5Last {op h t b h2 f} (hu : s.upc = .t5 op h t b h2 f) (hr : reopens s f s.gate = false) :
      MicroCase s (complete (some (readResult b true)) s)
  | t6 {op h t b h2 f g} (hu : s.upc = .t6 op h t b h2 f g) :
      MicroCase s (complete (some (readResult b true)) (writeGate .go s))
  | a0 (hu : s.upc = .a0) : MicroCase s (goTo (.a1 s.rx.head) s)
  | a1 {h} (hu : s.upc = .a1 h) : MicroCase s (complete (some (boolResult (!isEmpty h s.rx.tail))) s)

/-- A micro-step that answers is one of these cases. -/
theorem microStep_cases {s t : State} (h : (microStep s).state? = some t) : MicroCase s t := by
  unfold microStep at h
  split at h
  case h_1 hu => simp only [state?_done, Option.some.injEq] at h; subst h; exact .idle hu
  case h_2 hu => simp only [microW0, state?_onward, Option.some.injEq] at h; subst h; exact .w0 hu
  case h_3 hu =>
    unfold microW1 at h
    split at h
    · next he =>
      simp only [state?_onward, Option.some.injEq] at h
      subst h
      exact .w1Empty hu (by simpa using he)
    · next he =>
      simp only [state?_onward, Option.some.injEq] at h
      subst h
      exact .w1Queue hu (by simpa using he)
  case h_4 f _ _ hu =>
    cases f <;> simp only [microW2, Bool.false_eq_true, if_true, if_false, state?_onward, Option.some.injEq] at h <;>
      subst h
    · exact .w2Busy hu
    · exact .w2Ready hu
  case h_5 hu => simp only [microW3, state?_onward, Option.some.injEq] at h; subst h; exact .w3 hu
  case h_6 hu =>
    unfold microW4 at h
    split at h
    · next he =>
      split at h
      · next hp =>
        simp only [state?_onward, Option.some.injEq] at h
        subst h
        exact .w4Discard hu (by simpa using he) hp
      · next hp =>
        simp only [state?_waiting, Option.some.injEq] at h
        subst h
        exact .w4Wait hu (by simpa using he) hp
    · next he =>
      simp only [state?_onward, Option.some.injEq] at h
      subst h
      exact .w4Room hu (by simpa using he)
  case h_7 hu =>
    unfold microW5 at h
    split at h
    · next hw =>
      obtain ⟨hlt, rfl⟩ := memWrite_ok hw
      simp only [state?_onward, Option.some.injEq] at h
      subst h
      exact .w5 hu hlt
    · simp at h
  case h_8 hu => simp only [microW6, state?_onward, Option.some.injEq] at h; subst h; exact .w6 hu
  case h_9 hu => simp only [microW7, state?_done, Option.some.injEq] at h; subst h; exact .w7 hu
  case h_10 hu => simp only [microF0, state?_onward, Option.some.injEq] at h; subst h; exact .f0 hu
  case h_11 hu => simp only [microF1, state?_done, Option.some.injEq] at h; subst h; exact .f1 hu
  case h_12 hu => simp only [microI0, state?_onward, Option.some.injEq] at h; subst h; exact .i0 hu
  case h_13 hu => simp only [microI1, state?_done, Option.some.injEq] at h; subst h; exact .i1 hu
  case h_14 hu => simp only [microT0, state?_onward, Option.some.injEq] at h; subst h; exact .t0 hu
  case h_15 op _ hu =>
    unfold microT1 at h
    split at h
    · next he =>
      cases op
      · simp only [notFound, state?_done, Option.some.injEq] at h
        subst h
        exact .t1None hu (by simpa using he)
      · obtain rfl : goTo (.t0 .readb) s = t := by
          simp only [notFound, startOver] at h
          split at h <;> simpa using h
        exact .t1Wait hu (by simpa using he)
    · next he =>
      simp only [state?_onward, Option.some.injEq] at h
      subst h
      exact .t1Found hu (by simpa using he)
  case h_16 hu =>
    unfold microT2 at h
    split at h
    · next hm =>
      obtain ⟨hlt, rfl⟩ := memRead_ok hm
      simp only [state?_onward, Option.some.injEq] at h
      subst h
      exact .t2 hu hlt
    · simp at h
  case h_17 hu =>
    unfold microT3 found at h
    split at h
    · next hc => simp only [state?_onward, Option.some.injEq] at h; subst h; exact .t3 hu hc
    · next hc => simp only [state?_done, Option.some.injEq] at h; subst h; exact .t3Last hu (by simpa using hc)
  case h_18 hu => simp only [microT4, state?_onward, Option.some.injEq] at h; subst h; exact .t4 hu
  case h_19 hu =>
    unfold microT5 found at h
    split at h
    · next hr => simp only [state?_onward, Option.some.injEq] at h; subst h; exact .t5 hu hr
    · next hr => simp only [state?_done, Option.some.injEq] at h; subst h; exact .t5Last hu (by simpa using hr)
  case h_20 hu => simp only [microT6, found, state?_done, Option.some.injEq] at h; subst h; exact .t6 hu
  case h_21 hu => simp only [microA0, state?_onward, Option.some.injEq] at h; subst h; exact .a0 hu
  case h_22 hu => simp only [microA1, state?_done, Option.some.injEq] at h; subst h; exact .a1 hu

/-! Recording the overflow touches the trace alone. -/

@[simp] theorem noteOverflowOnce_cfg (d : Byte) (seen : Option (Nat × Nat)) (s : State) :
    (noteOverflowOnce d seen s).cfg = s.cfg := by cases seen <;> rfl
@[simp] theorem noteOverflowOnce_tx (d : Byte) (seen : Option (Nat × Nat)) (s : State) :
    (noteOverflowOnce d seen s).tx = s.tx := by cases seen <;> rfl
@[simp] theorem noteOverflowOnce_rx (d : Byte) (seen : Option (Nat × Nat)) (s : State) :
    (noteOverflowOnce d seen s).rx = s.rx := by cases seen <;> rfl
@[simp] theorem noteOverflowOnce_gate (d : Byte) (seen : Option (Nat × Nat)) (s : State) :
    (noteOverflowOnce d seen s).gate = s.gate := by cases seen <;> rfl
@[simp] theorem noteOverflowOnce_ctsPin (d : Byte) (seen : Option (Nat × Nat)) (s : State) :
    (noteOverflowOnce d seen s).ctsPin = s.ctsPin := by cases seen <;> rfl
@[simp] theorem noteOverflowOnce_txie (d : Byte) (seen : Option (Nat × Nat)) (s : State) :
    (noteOverflowOnce d seen s).txie = s.txie := by cases seen <;> rfl
@[simp] theorem noteOverflowOnce_rxie (d : Byte) (seen : Option (Nat × Nat)) (s : State) :
    (noteOverflowOnce d seen s).rxie = s.rxie := by cases seen <;> rfl
@[simp] theorem noteOverflowOnce_upc (d : Byte) (seen : Option (Nat × Nat)) (s : State) :
    (noteOverflowOnce d seen s).upc = s.upc := by cases seen <;> rfl
@[simp] theorem noteOverflowOnce_inited (d : Byte) (seen : Option (Nat × Nat)) (s : State) :
    (noteOverflowOnce d seen s).inited = s.inited := by cases seen <;> rfl
@[simp] theorem noteOverflowOnce_result (d : Byte) (seen : Option (Nat × Nat)) (s : State) :
    (noteOverflowOnce d seen s).result = s.result := by cases seen <;> rfl
@[simp] theorem noteOverflowOnce_trace (d : Byte) (seen : Option (Nat × Nat)) (s : State) :
    (noteOverflowOnce d seen s).trace = s.trace ++ if seen = none then [.note (.transmitOverflow d)] else [] := by
  cases seen <;> simp [noteOverflowOnce]
@[simp] theorem noteOverflowOnce_draws (d : Byte) (seen : Option (Nat × Nat)) (s : State) :
    (noteOverflowOnce d seen s).draws = s.draws := by cases seen <;> rfl
@[simp] theorem noteOverflowOnce_input (d : Byte) (seen : Option (Nat × Nat)) (s : State) :
    (noteOverflowOnce d seen s).input = s.input := by cases seen <;> rfl
@[simp] theorem slotByte_noteOverflowOnce (d : Byte) (seen : Option (Nat × Nat)) (s : State) (x : Side) (o : Nat) :
    (noteOverflowOnce d seen s).slotByte x o = s.slotByte x o := by cases seen <;> cases x <;> rfl

/-- No micro-step changes the configuration, RXIE, the power-on mark or the input, nor what belongs to the handlers: the
transmit tail, the receive head and store (R43). -/
theorem microStep_frame {s t : State} (h : (microStep s).state? = some t) :
    t.cfg = s.cfg ∧ t.rxie = s.rxie ∧ t.inited = s.inited ∧ t.input = s.input ∧
      t.tx.tail = s.tx.tail ∧ t.rx.head = s.rx.head ∧ t.rx.buf = s.rx.buf := by
  cases microStep_cases h <;> simp

/-- A micro-step goes on within the rule of the operation in progress, or completes it (R27). -/
theorem microStep_labels {s t : State} (h : (microStep s).state? = some t) :
    t.upc = .idle ∨ t.upc.labels = s.upc.labels := by
  cases microStep_cases h <;> simp_all [Upc.labels]

/-- A micro-step leaves an armed Port armed. -/
theorem microStep_armed {s t : State} (h : (microStep s).state? = some t) (ha : Armed s) : Armed t := by
  obtain ⟨hc, -, hi, -⟩ := microStep_frame h
  rwa [Armed, hc, hi]

/-! ### How a micro-step ends -/

/-- The two ways a micro-step waits: W4 on a full instance under Block, T1 of READB on an empty one (R88, R99). -/
theorem microStep_waiting {s t : State} (h : microStep s = .waiting t) :
    (∃ d hd tl r seen, s.upc = .w4 d hd tl r seen ∧ nextOffset s.cfg.nTx hd = s.tx.tail ∧ s.cfg.policy = .block ∧
      t = goTo (.w4 d hd tl r (some (s.tx.tail, s.next .tx hd))) (noteOverflowOnce d seen s)) ∨
    (∃ hd, s.upc = .t1 .readb hd ∧ hd = s.rx.tail ∧ s.rx.head = s.rx.tail ∧ t = goTo (.t0 .readb) s) := by
  unfold microStep at h
  split at h
  case h_6 hu =>
    unfold microW4 at h
    split at h
    · next hf =>
      split at h
      · simp at h
      · next hp => exact .inl ⟨_, _, _, _, _, hu, by simpa using hf, hp, by simpa using h.symm⟩
    · simp at h
  case h_15 op _ hu =>
    unfold microT1 notFound at h
    split at h
    · next he =>
      cases op
      · simp at h
      · simp only [startOver] at h
        split at h
        · next hm => exact .inr ⟨_, hu, by simpa using he, by simpa using hm, by simpa using h.symm⟩
        · simp at h
    · simp at h
  all_goals
    simp only [microW0, microW1, microW2, microW3, microW5, microW6, microW7, microF0, microF1, microI0, microI1,
      microT0, microT2, microT3, microT4, microT5, microT6, found, microA0, microA1, reduceCtorEq] at h
  all_goals split at h <;> simp at h

/-- A micro-step that completes its operation leaves no operation in progress. -/
theorem microStep_done {s t : State} (h : microStep s = .done t) : t.upc = .idle := by
  unfold microStep at h
  split at h
  all_goals
    simp only [microW0, microW1, microW2, microW3, microW4, microW5, microW6, microW7, microF0, microF1, microI0,
      microI1, microT0, microT1, notFound, startOver, microT2, microT3, microT4, microT5, microT6, found, microA0, microA1,
      reduceCtorEq, Progress.done.injEq] at h
  all_goals repeat' (split at h)
  all_goals first
    | (simp at h; done)
    | (subst h; first | assumption | rfl)
    | (injection h with h; subst h; rfl)

/-- The most micro-steps the operation in progress has still to perform from where it is to completion or to a wait. -/
def State.remaining (s : State) : Nat :=
  match s.upc with
  | .idle => 0
  | .w0 .. => 7
  | .w1 .. => 6
  | .w2 .. => 5
  | .w4 .. => 4
  | .w5 .. => 3
  | .w3 .. | .w6 .. => 2
  | .w7 .. => 1
  | .f0 | .i0 | .a0 => 2
  | .f1 .. | .i1 .. | .a1 .. => 1
  | .t0 .. => if s.empty .rx then 2 else 7
  | .t1 _ h => if h = s.rx.tail then (if s.empty .rx then 1 else 8) else 6
  | .t2 .. => 5
  | .t3 .. => 4
  | .t4 .. => 3
  | .t5 .. => 2
  | .t6 .. => 1

theorem State.remaining_lt (s : State) : s.remaining < microBound := by
  unfold State.remaining microBound
  split <;> try omega
  · split <;> omega
  · split_ifs <;> omega

/-- A micro-step that waits is one that was to be performed. -/
theorem remaining_of_waiting {s t : State} (h : microStep s = .waiting t) : 0 < s.remaining := by
  obtain ⟨d, h, t, r, seen, hu, -⟩ | ⟨h, hu, -⟩ := microStep_waiting h <;> simp only [State.remaining, hu]
  · omega
  · split_ifs <;> omega

/-- A micro-step that goes on has fewer to perform, and the operation is still in progress. -/
theorem microStep_onward {s t : State} (h : microStep s = .onward t) :
    t.remaining < s.remaining ∧ s.upc ≠ .idle ∧ t.upc ≠ .idle := by
  unfold microStep at h
  split at h
  all_goals rename_i hu
  all_goals
    simp only [microW0, microW1, microW2, microW3, microW4, microW5, microW6, microW7, microF0, microF1, microI0,
      microI1, microT0, microT1, notFound, startOver, microT2, microT3, microT4, microT5, microT6, found, microA0, microA1,
      reduceCtorEq, Progress.onward.injEq] at h
  all_goals repeat' (split at h)
  all_goals first
    | (simp at h; done)
    | (subst h; simp_all [State.remaining]; done)
    | (injection h with h; subst h; simp_all [State.remaining])
    | (subst h; simp only [State.remaining, hu, goTo_upc]; split_ifs <;> simp_all)

/-! ### A run of micro-steps -/

/-- The run goes on past a wait: `upto` names the micro-step to which the operation has returned, and that is not the one
just performed. -/
abbrev ReturnsTo (upto : Option Label) (s s' : State) : Prop :=
  (upto.isSome && decide (s'.upc.label = upto) && decide (s.upc.label ≠ upto)) = true

/-- Only a READB waiting at T0 is run on, and then by T0 alone (R62, R99). -/
theorem runMicro_returned {upto : Option Label} {k : Nat} {s s' : State} (hm : microStep s = .waiting s')
    (hr : ReturnsTo upto s s') : runMicro upto (k + 1) s' = .next (goTo (.t1 .readb s.rx.head) s) := by
  simp only [ReturnsTo, Bool.and_eq_true, decide_eq_true_eq, ne_eq] at hr
  obtain ⟨⟨-, hl⟩, hn⟩ := hr
  obtain ⟨d, h, t, r, seen, hu, -, -, rfl⟩ | ⟨h, hu, -, -, rfl⟩ := microStep_waiting hm
  · exact absurd (by simpa [hu, Upc.label] using hl) (by simpa [hu, Upc.label] using hn)
  · simp only [goTo_upc, Upc.label] at hl
    subst hl
    rfl

/-- A run of enough micro-steps does not depend on how many are allowed. -/
theorem runMicro_enough {upto : Option Label} {k j : Nat} {s : State} (hk : s.remaining < k)
    (hj : s.remaining < j) : runMicro upto k s = runMicro upto j s := by
  induction k generalizing j s with
  | zero => omega
  | succ k ih =>
    cases j with
    | zero => omega
    | succ j =>
      unfold runMicro
      split
      · next hm =>
        have := microStep_onward hm
        rw [ih (j := j) (by omega) (by omega)]
      · next hm =>
        split
        · next hr =>
          have := remaining_of_waiting hm
          obtain ⟨k, rfl⟩ : ∃ i, k = i + 1 := ⟨k - 1, by omega⟩
          obtain ⟨j, rfl⟩ : ∃ i, j = i + 1 := ⟨j - 1, by omega⟩
          rw [runMicro_returned hm hr, runMicro_returned hm hr]
        · rfl
      all_goals rfl

/-- What holds at the start of a run and is kept by every micro-step of an armed Port holds where the run stops. -/
theorem runMicro_keeps {P : State → Prop} (hstep : ∀ s t, Armed s → P s → (microStep s).state? = some t → P t)
    {upto : Option Label} {k : Nat} {s t : State} (ha : Armed s) (hp : P s) (h : runMicro upto k s = .next t) :
    P t ∧ Armed t := by
  induction k generalizing s with
  | zero => simp only [runMicro, Host.Outcome.next.injEq] at h; exact h ▸ ⟨hp, ha⟩
  | succ k ih =>
    unfold runMicro at h
    have key : ∀ s', (microStep s).state? = some s' → P s' ∧ Armed s' := fun s' hs =>
      ⟨hstep s s' ha hp hs, microStep_armed hs ha⟩
    split at h
    · next s' hm =>
      obtain ⟨hp', ha'⟩ := key s' (by rw [hm]; rfl)
      split at h
      · simp only [Host.Outcome.next.injEq] at h; exact h ▸ ⟨hp', ha'⟩
      · exact ih ha' hp' h
    · next s' hm =>
      obtain ⟨hp', ha'⟩ := key s' (by rw [hm]; rfl)
      split at h
      · exact ih ha' hp' h
      · simp only [Host.Outcome.next.injEq] at h; exact h ▸ ⟨hp', ha'⟩
    · next s' hm => simp only [Host.Outcome.next.injEq] at h; exact h ▸ key s' (by rw [hm]; rfl)
    · simp at h

/-- A run faults only where some micro-step on the way does. -/
theorem runMicro_noFault {P : State → Prop} (hstep : ∀ s t, Armed s → P s → (microStep s).state? = some t → P t)
    (hsafe : ∀ s, Armed s → P s → ∀ r, microStep s ≠ .fault r)
    {upto : Option Label} {k : Nat} {s : State} (ha : Armed s) (hp : P s) (r : Fault) :
    runMicro upto k s ≠ .fault r := by
  induction k generalizing s with
  | zero => simp [runMicro]
  | succ k ih =>
    unfold runMicro
    split
    · next s' hm =>
      have hs : (microStep s).state? = some s' := by rw [hm]; rfl
      split
      · simp
      · exact ih (microStep_armed hs ha) (hstep s s' ha hp hs)
    · next s' hm =>
      have hs : (microStep s).state? = some s' := by rw [hm]; rfl
      split
      · exact ih (microStep_armed hs ha) (hstep s s' ha hp hs)
      · simp
    · simp
    · next r' hm => exact absurd hm (hsafe s ha hp r')

/-- A run is never refused. -/
theorem runMicro_not_refused (upto : Option Label) (k : Nat) (s : State) (r : Refusal) :
    runMicro upto k s ≠ .refused r := by
  induction k generalizing s with
  | zero => simp [runMicro]
  | succ k ih =>
    unfold runMicro
    split
    · split
      · simp
      · exact ih _
    · split
      · exact ih _
      · simp
    all_goals simp

/-- What an issued operation that answers did: the Port was ready, and the run from its first label answered. -/
theorem issueUpto_next {upto : Option Label} {start : Upc} {s t : State} (h : issueUpto upto start s = .next t) :
    Ready s ∧ runMicro upto microBound (goTo start s) = .next t := by
  unfold issueUpto at h
  split at h
  · simp at h
  · next hb => exact ⟨(blockedMainline_eq_none s).mp hb, h⟩

/-- What a RESUME that answers did. -/
theorem resumeUpto_next {upto : Option Label} {s t : State} (h : resumeUpto upto s = .next t) :
    Armed s ∧ runMicro upto microBound s = .next t := by
  unfold resumeUpto at h
  split at h
  · simp at h
  · next hb => exact ⟨(blocked_eq_none s).mp hb, h⟩

/-- What one micro-step of mainline that answers did. -/
theorem advance_next {s t : State} (h : advance s = .next t) : Armed s ∧ (microStep s).state? = some t := by
  unfold advance at h
  split at h
  · simp at h
  · next hb =>
    refine ⟨(blocked_eq_none s).mp hb, ?_⟩
    split at h
    all_goals first | (next hm => simp only [Host.Outcome.next.injEq] at h; rw [hm, ← h]; rfl) | simp at h

end Sys2Proof.Machine
end

