-- ==== Sys2Proof/Laws/Handlers.lean ====
section
/-! SUPPORT. What INIT and the two handlers can do: one lemma per field for each of their steps, and one inversion lemma
for each handler's transition. -/

namespace Sys2Proof.Machine

/-! ### The gate -/

@[simp] theorem openGate_cfg (s : State) : (openGate s).cfg = s.cfg := by unfold openGate; split <;> rfl
@[simp] theorem openGate_tx (s : State) : (openGate s).tx = s.tx := by unfold openGate; split <;> rfl
@[simp] theorem openGate_rx (s : State) : (openGate s).rx = s.rx := by unfold openGate; split <;> rfl
@[simp] theorem openGate_gate (s : State) : (openGate s).gate = if s.cfg.ctsPresent then .go else s.gate := by unfold openGate; split <;> rfl
@[simp] theorem openGate_ctsPin (s : State) : (openGate s).ctsPin = if s.cfg.ctsPresent then pinLevel s.cfg .go else s.ctsPin := by unfold openGate; split <;> rfl
@[simp] theorem openGate_txie (s : State) : (openGate s).txie = s.txie := by unfold openGate; split <;> rfl
@[simp] theorem openGate_rxie (s : State) : (openGate s).rxie = s.rxie := by unfold openGate; split <;> rfl
@[simp] theorem openGate_upc (s : State) : (openGate s).upc = s.upc := by unfold openGate; split <;> rfl
@[simp] theorem openGate_inited (s : State) : (openGate s).inited = s.inited := by unfold openGate; split <;> rfl
@[simp] theorem openGate_result (s : State) : (openGate s).result = s.result := by unfold openGate; split <;> rfl
@[simp] theorem openGate_trace (s : State) : (openGate s).trace = s.trace ++ if s.cfg.ctsPresent then [.ctsDrive (pinLevel s.cfg .go)] else [] := by unfold openGate; split <;> simp
@[simp] theorem openGate_draws (s : State) : (openGate s).draws = s.draws := by unfold openGate; split <;> rfl
@[simp] theorem openGate_input (s : State) : (openGate s).input = s.input := by unfold openGate; split <;> rfl

/-- The closing step closes: there is a gate and the free space is below the threshold (R84). -/
def closes (s : State) : Bool := s.cfg.ctsPresent && below s.cfg.nRx s.cfg.t s.rx.head s.rx.tail

@[simp] theorem closeGate_cfg (s : State) : (closeGate s).cfg = s.cfg := by unfold closeGate; split <;> rfl
@[simp] theorem closeGate_tx (s : State) : (closeGate s).tx = s.tx := by unfold closeGate; split <;> rfl
@[simp] theorem closeGate_rx (s : State) : (closeGate s).rx = s.rx := by unfold closeGate; split <;> rfl
@[simp] theorem closeGate_gate (s : State) : (closeGate s).gate = if closes s then .stop else s.gate := by unfold closeGate closes; split <;> rfl
@[simp] theorem closeGate_ctsPin (s : State) : (closeGate s).ctsPin = if closes s then pinLevel s.cfg .stop else s.ctsPin := by unfold closeGate closes; split <;> rfl
@[simp] theorem closeGate_txie (s : State) : (closeGate s).txie = s.txie := by unfold closeGate; split <;> rfl
@[simp] theorem closeGate_rxie (s : State) : (closeGate s).rxie = s.rxie := by unfold closeGate; split <;> rfl
@[simp] theorem closeGate_upc (s : State) : (closeGate s).upc = s.upc := by unfold closeGate; split <;> rfl
@[simp] theorem closeGate_inited (s : State) : (closeGate s).inited = s.inited := by unfold closeGate; split <;> rfl
@[simp] theorem closeGate_result (s : State) : (closeGate s).result = s.result := by unfold closeGate; split <;> rfl
@[simp] theorem closeGate_trace (s : State) : (closeGate s).trace = s.trace ++ if closes s then [.ctsDrive (pinLevel s.cfg .stop)] else [] := by unfold closeGate closes; split <;> simp
@[simp] theorem closeGate_draws (s : State) : (closeGate s).draws = s.draws := by unfold closeGate; split <;> rfl
@[simp] theorem closeGate_input (s : State) : (closeGate s).input = s.input := by unfold closeGate; split <;> rfl

/-! ### The receive handler -/

@[simp] theorem invokeCallback_cfg (v : Byte) (s : State) : (invokeCallback v s).cfg = s.cfg := by unfold invokeCallback; split <;> rfl
@[simp] theorem invokeCallback_tx (v : Byte) (s : State) : (invokeCallback v s).tx = s.tx := by unfold invokeCallback; split <;> rfl
@[simp] theorem invokeCallback_rx (v : Byte) (s : State) : (invokeCallback v s).rx = s.rx := by unfold invokeCallback; split <;> rfl
@[simp] theorem invokeCallback_gate (v : Byte) (s : State) : (invokeCallback v s).gate = s.gate := by unfold invokeCallback; split <;> rfl
@[simp] theorem invokeCallback_ctsPin (v : Byte) (s : State) : (invokeCallback v s).ctsPin = s.ctsPin := by unfold invokeCallback; split <;> rfl
@[simp] theorem invokeCallback_txie (v : Byte) (s : State) : (invokeCallback v s).txie = s.txie := by unfold invokeCallback; split <;> rfl
@[simp] theorem invokeCallback_rxie (v : Byte) (s : State) : (invokeCallback v s).rxie = s.rxie := by unfold invokeCallback; split <;> rfl
@[simp] theorem invokeCallback_upc (v : Byte) (s : State) : (invokeCallback v s).upc = s.upc := by unfold invokeCallback; split <;> rfl
@[simp] theorem invokeCallback_inited (v : Byte) (s : State) : (invokeCallback v s).inited = s.inited := by unfold invokeCallback; split <;> rfl
@[simp] theorem invokeCallback_result (v : Byte) (s : State) : (invokeCallback v s).result = s.result := by unfold invokeCallback; split <;> rfl
@[simp] theorem invokeCallback_trace (v : Byte) (s : State) : (invokeCallback v s).trace = s.trace ++ if s.cfg.callback then [.callback v] else [] := by unfold invokeCallback; split <;> simp
@[simp] theorem invokeCallback_draws (v : Byte) (s : State) : (invokeCallback v s).draws = s.draws := by unfold invokeCallback; split <;> rfl
@[simp] theorem invokeCallback_input (v : Byte) (s : State) : (invokeCallback v s).input = s.input := by unfold invokeCallback; split <;> rfl

@[simp] theorem commitOrDrop_cfg (v : Byte) (s : State) : (commitOrDrop v s).cfg = s.cfg := by unfold commitOrDrop; split <;> rfl
@[simp] theorem commitOrDrop_tx (v : Byte) (s : State) : (commitOrDrop v s).tx = s.tx := by unfold commitOrDrop; split <;> rfl
@[simp] theorem commitOrDrop_rx (v : Byte) (s : State) : (commitOrDrop v s).rx = if s.full .rx then s.rx else { s.rx with head := s.next .rx s.rx.head } := by unfold commitOrDrop; split <;> rfl
@[simp] theorem commitOrDrop_gate (v : Byte) (s : State) : (commitOrDrop v s).gate = s.gate := by unfold commitOrDrop; split <;> rfl
@[simp] theorem commitOrDrop_ctsPin (v : Byte) (s : State) : (commitOrDrop v s).ctsPin = s.ctsPin := by unfold commitOrDrop; split <;> rfl
@[simp] theorem commitOrDrop_txie (v : Byte) (s : State) : (commitOrDrop v s).txie = s.txie := by unfold commitOrDrop; split <;> rfl
@[simp] theorem commitOrDrop_rxie (v : Byte) (s : State) : (commitOrDrop v s).rxie = s.rxie := by unfold commitOrDrop; split <;> rfl
@[simp] theorem commitOrDrop_upc (v : Byte) (s : State) : (commitOrDrop v s).upc = s.upc := by unfold commitOrDrop; split <;> rfl
@[simp] theorem commitOrDrop_inited (v : Byte) (s : State) : (commitOrDrop v s).inited = s.inited := by unfold commitOrDrop; split <;> rfl
@[simp] theorem commitOrDrop_result (v : Byte) (s : State) : (commitOrDrop v s).result = s.result := by unfold commitOrDrop; split <;> rfl
@[simp] theorem commitOrDrop_trace (v : Byte) (s : State) : (commitOrDrop v s).trace = s.trace ++ if s.full .rx then [.note (.receiveBufferOverflow v)] else [] := by unfold commitOrDrop; split <;> simp
@[simp] theorem commitOrDrop_draws (v : Byte) (s : State) : (commitOrDrop v s).draws = s.draws := by unfold commitOrDrop; split <;> rfl
@[simp] theorem commitOrDrop_input (v : Byte) (s : State) : (commitOrDrop v s).input = s.input := by unfold commitOrDrop; split <;> rfl

@[simp] theorem recoverReceive_cfg (s : State) : (recoverReceive s).cfg = s.cfg := by simp [recoverReceive]
@[simp] theorem recoverReceive_tx (s : State) : (recoverReceive s).tx = s.tx := by simp [recoverReceive]
@[simp] theorem recoverReceive_rx (s : State) : (recoverReceive s).rx = { s.rx with head := 0, tail := 0 } := by simp [recoverReceive]
@[simp] theorem recoverReceive_gate (s : State) : (recoverReceive s).gate = if s.cfg.ctsPresent then .go else s.gate := by
  cases h : s.cfg.ctsPresent <;> simp [recoverReceive, h]
@[simp] theorem recoverReceive_ctsPin (s : State) : (recoverReceive s).ctsPin = if s.cfg.ctsPresent then pinLevel s.cfg .go else s.ctsPin := by
  cases h : s.cfg.ctsPresent <;> simp [recoverReceive, h]
@[simp] theorem recoverReceive_txie (s : State) : (recoverReceive s).txie = s.txie := by simp [recoverReceive]
@[simp] theorem recoverReceive_rxie (s : State) : (recoverReceive s).rxie = s.rxie := by simp [recoverReceive]
@[simp] theorem recoverReceive_upc (s : State) : (recoverReceive s).upc = s.upc := by simp [recoverReceive]
@[simp] theorem recoverReceive_inited (s : State) : (recoverReceive s).inited = s.inited := by simp [recoverReceive]
@[simp] theorem recoverReceive_result (s : State) : (recoverReceive s).result = s.result := by simp [recoverReceive]
@[simp] theorem recoverReceive_draws (s : State) : (recoverReceive s).draws = s.draws + 1 := by simp [recoverReceive]
@[simp] theorem recoverReceive_input (s : State) : (recoverReceive s).input = s.input := by simp [recoverReceive]

/-! ### INIT -/

@[simp] theorem initialise_cfg (s : State) : (initialise s).cfg = s.cfg := by simp [initialise]
@[simp] theorem initialise_tx (s : State) : (initialise s).tx = { s.tx with head := 0, tail := 0 } := by simp [initialise]
@[simp] theorem initialise_rx (s : State) : (initialise s).rx = { s.rx with head := 0, tail := 0 } := by simp [initialise]
@[simp] theorem initialise_gate (s : State) : (initialise s).gate = if s.cfg.ctsPresent then .go else s.gate := by
  cases h : s.cfg.ctsPresent <;> simp [initialise, h]
@[simp] theorem initialise_ctsPin (s : State) : (initialise s).ctsPin = if s.cfg.ctsPresent then pinLevel s.cfg .go else s.ctsPin := by
  cases h : s.cfg.ctsPresent <;> simp [initialise, h]
@[simp] theorem initialise_txie (s : State) : (initialise s).txie = false := by simp [initialise]
@[simp] theorem initialise_rxie (s : State) : (initialise s).rxie = true := by simp [initialise]
@[simp] theorem initialise_upc (s : State) : (initialise s).upc = .idle := by simp [initialise]
@[simp] theorem initialise_inited (s : State) : (initialise s).inited = true := by simp [initialise]
@[simp] theorem initialise_result (s : State) : (initialise s).result = none := by simp [initialise]
@[simp] theorem initialise_trace (s : State) : (initialise s).trace = s.trace ++ [.uartConfigure] ++ if s.cfg.ctsPresent then [.ctsDrive (pinLevel s.cfg .go)] else [] := by
  cases h : s.cfg.ctsPresent <;> simp [initialise, h]
@[simp] theorem initialise_draws (s : State) : (initialise s).draws = s.draws := by simp [initialise]
@[simp] theorem initialise_input (s : State) : (initialise s).input = s.input := by simp [initialise]

/-! ### The bytes of the stores -/

@[simp] theorem slotByte_openGate (s : State) (x : Side) (o : Nat) :
    (openGate s).slotByte x o = s.slotByte x o := slotByte_congr (by cases x <;> simp) o
@[simp] theorem slotByte_closeGate (s : State) (x : Side) (o : Nat) :
    (closeGate s).slotByte x o = s.slotByte x o := slotByte_congr (by cases x <;> simp) o
@[simp] theorem slotByte_invokeCallback (v : Byte) (s : State) (x : Side) (o : Nat) :
    (invokeCallback v s).slotByte x o = s.slotByte x o := slotByte_congr (by cases x <;> simp) o
@[simp] theorem slotByte_commitOrDrop (v : Byte) (s : State) (x : Side) (o : Nat) :
    (commitOrDrop v s).slotByte x o = s.slotByte x o := by
  unfold commitOrDrop
  split <;> simp
@[simp] theorem slotByte_recoverReceive (s : State) (x : Side) (o : Nat) :
    (recoverReceive s).slotByte x o = s.slotByte x o := slotByte_congr (by cases x <;> simp) o
@[simp] theorem slotByte_initialise (s : State) (x : Side) (o : Nat) :
    (initialise s).slotByte x o = s.slotByte x o := slotByte_congr (by cases x <;> simp) o

/-! ### The handlers' transitions -/

/-- What a transition of the transmit handler that answers did (R94). -/
theorem transmitHandler_next {f : Bool} {s t : State} (h : transmitHandler f s = .next t) :
    ((f && s.txie) = false ∧ t = s) ∨
    (f = true ∧ s.txie = true ∧ s.tx.head = s.tx.tail ∧ t = writeTxie false s) ∨
    (f = true ∧ s.txie = true ∧ s.tx.head ≠ s.tx.tail ∧ s.tx.tail < s.cfg.nTx ∧
      t = emit (.txregWrite (s.slotByte .tx s.tx.tail)) (writeTail .tx (s.next .tx s.tx.tail) s)) := by
  unfold transmitHandler at h
  split at h
  · next hf =>
    obtain ⟨hf, ht⟩ : f = true ∧ s.txie = true := by simpa using hf
    split at h
    · next he =>
      simp only [Host.Outcome.next.injEq] at h
      exact .inr (.inl ⟨hf, ht, by simpa using he, h.symm⟩)
    · next he =>
      split at h
      · next hp =>
        obtain ⟨hlt, rfl, rfl⟩ := popStep_ok hp
        simp only [Host.Outcome.next.injEq] at h
        exact .inr (.inr ⟨hf, ht, by simpa using he, hlt, h.symm⟩)
      · simp at h
  · next hf =>
    simp only [Host.Outcome.next.injEq] at h
    exact .inl ⟨by simpa using hf, h.symm⟩

/-- The state in which the receive handler has stored a byte at the head (R104). -/
def receivedAtHead (d : Byte) (s : State) : State := (emit .rxregRead s).setFifo .rx (s.rx.store s.rx.head d)

@[simp] theorem slotByte_receivedAtHead (d : Byte) (s : State) (x : Side) (o : Nat) :
    (receivedAtHead d s).slotByte x o = if x = .rx ∧ o = s.rx.head then d else s.slotByte x o := by
  cases x
  · simp [receivedAtHead]
  · by_cases h : s.rx.head = o
    · simp [receivedAtHead, State.slotByte, h]
    · simp [receivedAtHead, State.slotByte, Memory.get?_set_other _ _ h, Ne.symm h]

/-- What a transition of the receive handler that answers did (R101). -/
theorem receiveHandler_next {e f : Bool} {d : Byte} {s t : State} (h : receiveHandler e f d s = .next t) :
    (f = false ∧ t = s) ∨
    (e = true ∧ f = true ∧ t = recoverReceive s) ∨
    (e = false ∧ f = true ∧ s.rx.head < s.cfg.nRx ∧
      t = closeGate (commitOrDrop d (invokeCallback d (receivedAtHead d s)))) := by
  unfold receiveHandler classify at h
  cases f <;> cases e <;> simp only [Bool.not_false, Bool.not_true, if_true, Bool.false_eq_true, if_false,
    Host.Outcome.next.injEq, true_and, reduceCtorEq, false_and, false_or, or_false] at h ⊢
  · exact h.symm
  · exact h.symm
  · unfold receiveData at h
    split at h
    · next hw =>
      obtain ⟨hlt, rfl⟩ := memWrite_ok hw
      simp only [Host.Outcome.next.injEq] at h
      exact ⟨hlt, h.symm⟩
    · simp at h
  · exact h.symm

end Sys2Proof.Machine
end

