-- ==== Sys2Proof/Laws/PerInstr.lean ====
section
/-! SUPPORT. The statement made of every operation as syntax: its word matches its row of the opcode table. -/

namespace Sys2Proof.Laws

/-- The mask of an operation's row of the opcode table (30_encoding.md R55). -/
def tableMask : Instr → OpWord
  | .init => 0xFFFF
  | .write _ _ => 0xFE00
  | .txfree => 0xFFFF
  | .txidle => 0xFFFF
  | .tryread => 0xFFFF
  | .readb => 0xFFFF
  | .avail => 0xFFFF
  | .txisr _ => 0xFEFF
  | .rxisr _ _ _ => 0xFC00

/-- The match of an operation's row of the opcode table (R55). -/
def tableMatch : Instr → OpWord
  | .init => 0x0000
  | .write _ _ => 0x1000
  | .txfree => 0x2000
  | .txidle => 0x3000
  | .tryread => 0x4000
  | .readb => 0x5000
  | .avail => 0x6000
  | .txisr _ => 0x8000
  | .rxisr _ _ _ => 0x9000

/-- The word of an operation, under its row's mask, is its row's match. -/
def TableMatch.Statement (i : Instr) : Prop := encode i &&& tableMask i = tableMatch i

theorem TableMatch.init : TableMatch.Statement .init := rfl
theorem TableMatch.write (f : Bool) (data : Byte) : TableMatch.Statement (.write f data) := by
  unfold Statement; cases f <;> revert data <;> decide
theorem TableMatch.txfree : TableMatch.Statement .txfree := rfl
theorem TableMatch.txidle : TableMatch.Statement .txidle := rfl
theorem TableMatch.tryread : TableMatch.Statement .tryread := rfl
theorem TableMatch.readb : TableMatch.Statement .readb := rfl
theorem TableMatch.avail : TableMatch.Statement .avail := rfl
theorem TableMatch.txisr (f : Bool) : TableMatch.Statement (.txisr f) := by
  unfold Statement; cases f <;> decide
theorem TableMatch.rxisr (e f : Bool) (data : Byte) : TableMatch.Statement (.rxisr e f data) := by
  unfold Statement; cases e <;> cases f <;> revert data <;> decide

end Sys2Proof.Laws
end

