-- ==== Sys2Proof/Laws/Step.lean ====
section
/-! SUPPORT. What one step can do, and the induction over it: an invariant is shown once for each kind of transition. -/

namespace Sys2Proof.Machine

/-! ### The width of the offset registers -/

/-- From INIT on the range of the offsets keeps them within their registers (R13). -/
theorem offsetsFitWidth_of_inRange {s : State} (hl : s.cfg.legal = true) (ho : OffsetsInRange s) : OffsetsFitWidth s := by
  simp only [Cfg.legal, decide_eq_true_eq] at hl
  have := Nat.two_pow_pos s.cfg.w
  intro x
  have := ho x
  cases x <;> simp only [State.cap] at this <;> omega

/-- Before INIT the width of the configuration supplied does (R16). -/
theorem offsetsFitWidth_configured (c : Cfg) (s : State) : OffsetsFitWidth (configured c s) := fun x => by
  cases x <;> exact ⟨fit_head_lt _ _, fit_tail_lt _ _⟩

/-! ### configured -/

@[simp] theorem configured_cfg (c : Cfg) (s : State) : (configured c s).cfg = c := rfl
@[simp] theorem configured_tx (c : Cfg) (s : State) : (configured c s).tx = s.tx.fit c.w := rfl
@[simp] theorem configured_rx (c : Cfg) (s : State) : (configured c s).rx = s.rx.fit c.w := rfl
@[simp] theorem configured_gate (c : Cfg) (s : State) : (configured c s).gate = s.gate := rfl
@[simp] theorem configured_ctsPin (c : Cfg) (s : State) : (configured c s).ctsPin = s.ctsPin := rfl
@[simp] theorem configured_txie (c : Cfg) (s : State) : (configured c s).txie = s.txie := rfl
@[simp] theorem configured_rxie (c : Cfg) (s : State) : (configured c s).rxie = s.rxie := rfl
@[simp] theorem configured_upc (c : Cfg) (s : State) : (configured c s).upc = s.upc := rfl
@[simp] theorem configured_inited (c : Cfg) (s : State) : (configured c s).inited = s.inited := rfl
@[simp] theorem configured_result (c : Cfg) (s : State) : (configured c s).result = s.result := rfl
@[simp] theorem configured_trace (c : Cfg) (s : State) : (configured c s).trace = s.trace := rfl
@[simp] theorem configured_draws (c : Cfg) (s : State) : (configured c s).draws = s.draws := rfl
@[simp] theorem configured_input (c : Cfg) (s : State) : (configured c s).input = s.input := rfl

/-! ### Kept properties -/

/-- The first labels of the six operations with a micro-program. -/
inductive IsStart : Upc → Prop where
  | write (d : Byte) (f : Bool) : IsStart (.w0 d f)
  | txfree : IsStart .f0
  | txidle : IsStart .i0
  | read (op : ReadOp) : IsStart (.t0 op)
  | avail : IsStart .a0

theorem isStart_of_startOf {i : Instr} {u : Upc} (h : startOf i = some u) : IsStart u := by
  cases i <;> simp only [startOf, Option.some.injEq, reduceCtorEq] at h <;> subst h <;> constructor

/-- A property kept by every transition of the Port: INIT, the start of a mainline operation, one micro-step, either
handler, and what the outside does to the configuration and the requests. -/
structure Kept (P : State → Prop) : Prop where
  input : ∀ s x, P s → P { s with input := x }
  configure : ∀ s c, s.inited = false → P s → P (configured c s)
  init : ∀ s, s.cfg.legal = true → s.upc = .idle → P s → P (initialise s)
  start : ∀ s u, Ready s → IsStart u → P s → P (goTo u s)
  micro : ∀ s t, Armed s → P s → (microStep s).state? = some t → P t
  transmit : ∀ s f t, Armed s → P s → transmitHandler f s = .next t → P t
  receive : ∀ s e f d t, Armed s → P s → receiveHandler e f d s = .next t → P t

variable {P : State → Prop}

/-- A kept property is kept by a mainline operation, whole or split. -/
theorem Kept.issue (hk : Kept P) {upto : Option Label} {u : Upc} {s t : State} (hu : IsStart u) (hp : P s)
    (h : issueUpto upto u s = .next t) : P t := by
  obtain ⟨hr, hrun⟩ := issueUpto_next h
  exact (runMicro_keeps hk.micro (s := goTo u s) hr.1 (hk.start s u hr hu hp) hrun).1

/-- A kept property is kept by every operation. -/
theorem Kept.exec (hk : Kept P) {i : Instr} {s t : State} (hp : P s) (h : exec i s = .next t) : P t := by
  cases i with
  | init =>
    simp only [Machine.exec, execInit] at h
    split at h
    · simp at h
    · next hb =>
      obtain ⟨hl, hu⟩ := (blockedInit_eq_none s).mp hb
      simp only [Host.Outcome.next.injEq] at h
      exact h ▸ hk.init s hl hu hp
  | write f d => exact hk.issue (.write d f) hp h
  | txfree => exact hk.issue .txfree hp h
  | txidle => exact hk.issue .txidle hp h
  | tryread => exact hk.issue (.read .tryread) hp h
  | readb => exact hk.issue (.read .readb) hp h
  | avail => exact hk.issue .avail hp h
  | txisr f =>
    simp only [Machine.exec, execTxisr] at h
    split at h
    · simp at h
    · next hb => exact hk.transmit s f t ((blocked_eq_none s).mp hb) hp h
  | rxisr e f d =>
    simp only [Machine.exec, execRxisr] at h
    split at h
    · simp at h
    · next hb => exact hk.receive s e f d t ((blocked_eq_none s).mp hb) hp h

/-- A kept property is kept by an operation performed up to a label. -/
theorem Kept.execUpto (hk : Kept P) {i : Instr} {l : Label} {s t : State} (hp : P s)
    (h : execUpto i l s = .next t) : P t := by
  unfold Machine.execUpto at h
  split at h
  · simp at h
  · next u hu =>
    split at h
    · exact hk.issue (isStart_of_startOf hu) hp h
    · simp at h

/-- A kept property is kept by RESUME. -/
theorem Kept.resume (hk : Kept P) {upto : Option Label} {s t : State} (hp : P s)
    (h : resumeUpto upto s = .next t) : P t := by
  obtain ⟨ha, hrun⟩ := resumeUpto_next h
  exact (runMicro_keeps hk.micro ha hp hrun).1

/-- What a request that answers did. -/
theorem performRequest_next {agent : Agent} {w : OpWord} {upto : Option Label} {s t : State}
    (h : performRequest agent w upto s = .next t) :
    ∃ i, decode w = .ok i ∧ i.agent = agent ∧
      ((upto = none ∧ exec i s = .next t) ∨ ∃ l, upto = some l ∧ execUpto i l s = .next t) := by
  unfold performRequest at h
  split at h
  · simp at h
  · next i hd =>
    split at h
    · next hag =>
      refine ⟨i, hd, by simpa [Instr.allowedFrom] using hag, ?_⟩
      unfold performInstr at h
      split at h
      · exact .inl ⟨rfl, h⟩
      · exact .inr ⟨_, rfl, h⟩
    · simp at h

/-- What a RESUME item that answers did. -/
theorem performResume_next {upto : Option Label} {s t : State} (h : performResume upto s = .next t) :
    s.upc ≠ .idle ∧ resumeUpto upto s = .next t := by
  unfold performResume at h
  split at h
  · simp at h
  · next hi =>
    refine ⟨by simpa using hi, ?_⟩
    split at h
    · exact h
    · split at h
      · exact h
      · simp at h

/-- What a configuration item that answers did. -/
theorem performConfigure_next {c : Cfg} {s t : State} (h : performConfigure c s = .next t) :
    (s.inited = true ∧ c = s.cfg ∧ t = s) ∨ (s.inited = false ∧ t = configured c s) := by
  unfold performConfigure at h
  split at h
  · next hi =>
    split at h
    · next hc => exact .inl ⟨hi, hc, by simpa using h.symm⟩
    · simp at h
  · next hi => exact .inr ⟨by simpa using hi, by simpa using h.symm⟩

/-- What a step that answers did: it performed the oldest item, or it stood idle, or it performed one micro-step. -/
theorem step_next {s t : State} (h : step s = .next t) :
    (∃ agent w upto rest, s.input = .request agent w upto :: rest ∧
      performRequest agent w upto { s with input := rest } = .next t) ∨
    (∃ upto rest, s.input = .resume upto :: rest ∧ performResume upto { s with input := rest } = .next t) ∨
    (∃ c rest, s.input = .configure c :: rest ∧ performConfigure c { s with input := rest } = .next t) ∨
    (s.input = [] ∧ s.upc = .idle ∧ t = s) ∨
    (s.input = [] ∧ s.upc ≠ .idle ∧ advance s = .next t) := by
  unfold step at h
  split at h
  · next hin =>
    unfold unattended at h
    split at h
    · next hi => exact .inr (.inr (.inr (.inl ⟨hin, by simpa using hi, by simpa using h.symm⟩)))
    · next hi => exact .inr (.inr (.inr (.inr ⟨hin, by simpa using hi, h⟩)))
  · next x rest hin =>
    cases x with
    | request agent w upto => exact .inl ⟨agent, w, upto, rest, hin, h⟩
    | resume upto => exact .inr (.inl ⟨upto, rest, hin, h⟩)
    | configure c => exact .inr (.inr (.inl ⟨c, rest, hin, h⟩))

/-- A kept property is kept by every step. -/
theorem Kept.step (hk : Kept P) {s t : State} (hp : P s) (h : step s = .next t) : P t := by
  obtain ⟨agent, w, upto, rest, -, h⟩ | ⟨upto, rest, -, h⟩ | ⟨c, rest, -, h⟩ | ⟨-, -, rfl⟩ | ⟨-, -, h⟩ := step_next h
  · obtain ⟨i, -, -, ⟨-, h⟩ | ⟨l, -, h⟩⟩ := performRequest_next h
    · exact hk.exec (hk.input s rest hp) h
    · exact hk.execUpto (hk.input s rest hp) h
  · exact hk.resume (hk.input s rest hp) (performResume_next h).2
  · obtain ⟨-, -, rfl⟩ | ⟨hi, rfl⟩ := performConfigure_next h
    · exact hk.input s rest hp
    · exact hk.configure _ c hi (hk.input s rest hp)
  · exact hp
  · obtain ⟨ha, hm⟩ := advance_next h
    exact hk.micro s t ha hp hm

/-! ### The kinds of transition -/

/-- What an operation that answers did: INIT, a run of the micro-program from its first label, or a handler's transition. -/
theorem exec_next {i : Instr} {s t : State} (h : exec i s = .next t) :
    (i = .init ∧ s.cfg.legal = true ∧ s.upc = .idle ∧ t = initialise s) ∨
    (∃ u, startOf i = some u ∧ Ready s ∧ runMicro none microBound (goTo u s) = .next t) ∨
    (∃ f, i = .txisr f ∧ Armed s ∧ transmitHandler f s = .next t) ∨
    (∃ e f d, i = .rxisr e f d ∧ Armed s ∧ receiveHandler e f d s = .next t) := by
  cases i
  case init =>
    simp only [exec, execInit] at h
    split at h
    · simp at h
    · next hb =>
      obtain ⟨hl, hu⟩ := (blockedInit_eq_none s).mp hb
      simp only [Host.Outcome.next.injEq] at h
      exact .inl ⟨rfl, hl, hu, h.symm⟩
  case txisr f =>
    simp only [exec, execTxisr] at h
    split at h
    · simp at h
    · next hb => exact .inr (.inr (.inl ⟨f, rfl, (blocked_eq_none s).mp hb, h⟩))
  case rxisr e f d =>
    simp only [exec, execRxisr] at h
    split at h
    · simp at h
    · next hb => exact .inr (.inr (.inr ⟨e, f, d, rfl, (blocked_eq_none s).mp hb, h⟩))
  all_goals exact .inr (.inl ⟨_, rfl, issueUpto_next h⟩)

/-- What an operation performed up to a label did, where it answers. -/
theorem execUpto_next {i : Instr} {l : Label} {s t : State} (h : execUpto i l s = .next t) :
    ∃ u, startOf i = some u ∧ Ready s ∧ runMicro (some l) microBound (goTo u s) = .next t := by
  unfold execUpto at h
  split at h
  · simp at h
  · next u hu =>
    split at h
    · exact ⟨u, hu, issueUpto_next h⟩
    · simp at h

/-- One micro-step is a run up to the label it stands at. -/
theorem runMicro_of_advance {s t : State} (h : advance s = .next t) : runMicro s.upc.label microBound s = .next t := by
  obtain ⟨-, hm⟩ := advance_next h
  unfold microBound runMicro
  cases hp : microStep s with
  | onward s' =>
    have hs : s' = t := by simpa [hp, Progress.state?] using hm
    subst hs
    cases hl : s.upc.label with
    | some l => simp
    | none =>
      have hi : s.upc = .idle := by cases hu : s.upc <;> simp [hu, Upc.label] at hl ⊢
      simp [microStep, hi] at hp
  | waiting s' =>
    have hs : s' = t := by simpa [hp, Progress.state?] using hm
    simp [hs]
  | done s' => simpa [hp, Progress.state?] using hm
  | fault r => simp [hp, Progress.state?] at hm

/-- The kinds of transition by which the state `s` becomes `t`, on the state with the item performed taken. -/
inductive Transition (s : State) (t : State) : Prop where
  /-- INIT was requested. -/
  | init {agent w upto rest} (hin : s.input = .request agent w upto :: rest) (hd : decode w = .ok .init)
      (ht : t = initialise { s with input := rest })
  /-- A mainline operation was requested, and ran. -/
  | issued {agent w upto rest i u} (hin : s.input = .request agent w upto :: rest) (hd : decode w = .ok i)
      (hu : startOf i = some u) (hr : Ready s)
      (ht : runMicro upto microBound (goTo u { s with input := rest }) = .next t)
  /-- TXISR was requested. -/
  | transmit {agent w upto rest f} (hin : s.input = .request agent w upto :: rest) (hd : decode w = .ok (.txisr f))
      (ha : Armed s) (ht : transmitHandler f { s with input := rest } = .next t)
  /-- RXISR was requested. -/
  | receive {agent w upto rest e f d} (hin : s.input = .request agent w upto :: rest)
      (hd : decode w = .ok (.rxisr e f d)) (ha : Armed s) (ht : receiveHandler e f d { s with input := rest } = .next t)
  /-- The operation in progress ran on, by one micro-step or more. -/
  | onward {x : List Input} {upto} (hu : s.upc ≠ .idle) (ha : Armed s)
      (ht : runMicro upto microBound { s with input := x } = .next t)
  /-- The configuration was supplied, before the first INIT. -/
  | configured {x : List Input} {c} (hi : s.inited = false) (ht : t = configured c { s with input := x })
  /-- Nothing happened, but for an item taken that changes nothing. -/
  | idle {x : List Input} (ht : t = { s with input := x })

/-- A step that answers is one of these transitions. -/
theorem step_transition {s t : State} (h : step s = .next t) : Transition s t := by
  obtain ⟨agent, w, upto, rest, hin, h⟩ | ⟨upto, rest, -, h⟩ | ⟨c, rest, -, h⟩ | ⟨-, -, rfl⟩ | ⟨-, hu, h⟩ := step_next h
  · obtain ⟨i, hd, -, ⟨rfl, he⟩ | ⟨l, rfl, he⟩⟩ := performRequest_next h
    · obtain ⟨rfl, -, -, ht⟩ | ⟨u, hu, hr, ht⟩ | ⟨f, rfl, ha, ht⟩ | ⟨e, f, d, rfl, ha, ht⟩ := exec_next he
      · exact .init hin hd ht
      · exact .issued hin hd hu hr ht
      · exact .transmit hin hd ha ht
      · exact .receive hin hd ha ht
    · obtain ⟨u, hu, hr, ht⟩ := execUpto_next he
      exact .issued hin hd hu hr ht
  · obtain ⟨hu, h⟩ := performResume_next h
    obtain ⟨ha, ht⟩ := resumeUpto_next h
    exact .onward hu ha ht
  · obtain ⟨-, -, ht⟩ | ⟨hi, ht⟩ := performConfigure_next h
    · exact .idle ht
    · exact .configured hi ht
  · exact .idle rfl
  · exact .onward hu (advance_next h).1 (runMicro_of_advance h)

end Sys2Proof.Machine
end

