-- ==== Sys2Proof/Laws/Queue.lean ====
section
/-! SUPPORT. The queue of an instance (`State.queued`): what a pop, a store at the head and a commit of the head do to
the live window and to the bytes in it. -/

namespace Sys2Proof.Machine

/-- What the queue depends on: capacity, offsets and the bytes of the live window. -/
theorem queued_congr {s t : State} {x : Side} (hc : t.cap x = s.cap x) (hh : (t.fifo x).head = (s.fifo x).head)
    (ht : (t.fifo x).tail = (s.fifo x).tail) (hb : ∀ o ∈ s.liveWindow x, t.slotByte x o = s.slotByte x o) :
    t.queued x = s.queued x := by
  have hw : t.liveWindow x = s.liveWindow x := by simp [State.liveWindow, State.occupancy, hc, hh, ht]
  unfold State.queued
  rw [hw]
  exact List.map_congr_left hb

/-- An instance whose offsets are equal queues nothing. -/
theorem queued_of_empty {s : State} {x : Side} (h : (s.fifo x).head = (s.fifo x).tail) : s.queued x = [] := by
  simp [State.queued, State.liveWindow, State.occupancy, h]

/-- The window's `k`-th offset by cases. -/
theorem window_mod {n t k : Nat} (ht : t < n) (hk : k < n) : (t + k) % n = if t + k < n then t + k else t + k - n := by
  split
  · next h => exact Nat.mod_eq_of_lt h
  · next h => rw [Nat.mod_eq_sub_mod (by omega), Nat.mod_eq_of_lt (by omega)]

/-- One offset after the window's last is the head. -/
theorem window_end {n h t : Nat} (hh : h < n) (ht : t < n) : (t + occ n h t) % n = h := by
  rw [window_mod ht (occ_lt h t (by omega)), occ_of_lt hh ht]
  split <;> split <;> omega

/-- A head that advances on an instance not full leaves one byte more in the window. -/
theorem occ_next_head {n h t : Nat} (hn : 2 ≤ n) (hh : h < n) (ht : t < n) (hf : nextOffset n h ≠ t) :
    occ n (nextOffset n h) t = occ n h t + 1 := by
  have hlt := nextOffset_lt h (show 0 < n by omega)
  rw [occ_of_lt hlt ht, occ_of_lt hh ht]
  rw [nextOffset_of_lt hh] at hf ⊢
  split_ifs at hf ⊢ <;> omega

/-- A tail that advances on an instance not empty leaves one byte fewer in the window. -/
theorem occ_next_tail {n h t : Nat} (hn : 2 ≤ n) (hh : h < n) (ht : t < n) (he : h ≠ t) :
    occ n h t = occ n h (nextOffset n t) + 1 := by
  have hlt := nextOffset_lt t (show 0 < n by omega)
  rw [occ_of_lt hh hlt, occ_of_lt hh ht, nextOffset_of_lt ht]
  split_ifs <;> omega

/-- The head is not in the live window: what is stored there is queued nowhere. -/
theorem head_not_in_window {s : State} {x : Side} (hh : (s.fifo x).head < s.cap x) (ht : (s.fifo x).tail < s.cap x) :
    (s.fifo x).head ∉ s.liveWindow x := by
  simp only [State.liveWindow, State.occupancy, List.mem_map, List.mem_range, not_exists, not_and]
  intro k hk heq
  have hlt := occ_lt (s.fifo x).head (s.fifo x).tail (show 0 < s.cap x by omega)
  rw [window_mod ht (by omega)] at heq
  rw [occ_of_lt hh ht] at hk hlt
  split_ifs at * <;> omega

/-- A pop takes the oldest byte off the queue (R72). -/
theorem queued_pop {s : State} {x : Side} (hn : 2 ≤ s.cap x) (hh : (s.fifo x).head < s.cap x)
    (ht : (s.fifo x).tail < s.cap x) (he : (s.fifo x).head ≠ (s.fifo x).tail) :
    s.queued x = s.slotByte x (s.fifo x).tail ::
      (writeTail x (s.next x (s.fifo x).tail) s).queued x := by
  have hocc := occ_next_tail hn hh ht he
  have hw : s.liveWindow x = (s.fifo x).tail :: (writeTail x (s.next x (s.fifo x).tail) s).liveWindow x := by
    have h1 : (writeTail x (s.next x (s.fifo x).tail) s).liveWindow x =
        (List.range (occ (s.cap x) (s.fifo x).head (nextOffset (s.cap x) (s.fifo x).tail))).map
          fun k => (nextOffset (s.cap x) (s.fifo x).tail + k) % s.cap x := by cases x <;> rfl
    rw [h1, State.liveWindow, State.occupancy, hocc, List.range_succ_eq_map, List.map_cons, List.map_map]
    congr 1
    · simpa using Nat.mod_eq_of_lt ht
    · refine List.map_congr_left fun k _ => ?_
      simp only [Function.comp_apply, nextOffset, Nat.succ_eq_add_one, Nat.mod_add_mod]
      congr 1
      omega
  unfold State.queued
  rw [hw, List.map_cons]
  congr 1
  refine List.map_congr_left fun o _ => (slotByte_writeTail x _ s x o).symm

/-- A head that advances on an instance not full puts the byte of its slot at the end of the queue (R71). -/
theorem queued_commit {s : State} {x : Side} (hn : 2 ≤ s.cap x) (hh : (s.fifo x).head < s.cap x)
    (ht : (s.fifo x).tail < s.cap x) (hf : s.next x (s.fifo x).head ≠ (s.fifo x).tail) :
    (writeHead x (s.next x (s.fifo x).head) s).queued x = s.queued x ++ [s.slotByte x (s.fifo x).head] := by
  have hocc := occ_next_head hn hh ht hf
  have hw : (writeHead x (s.next x (s.fifo x).head) s).liveWindow x = s.liveWindow x ++ [(s.fifo x).head] := by
    have h1 : (writeHead x (s.next x (s.fifo x).head) s).liveWindow x =
        (List.range (occ (s.cap x) (nextOffset (s.cap x) (s.fifo x).head) (s.fifo x).tail)).map
          fun k => ((s.fifo x).tail + k) % s.cap x := by cases x <;> rfl
    rw [h1, hocc, List.range_succ, List.map_append, State.liveWindow, State.occupancy, List.map_singleton,
      window_end hh ht]
  unfold State.queued
  rw [hw, List.map_append, List.map_singleton, slotByte_writeHead]
  congr 1
  refine List.map_congr_left fun o _ => slotByte_writeHead x _ s x o

/-- The bytes sent grow by the byte an event sends. -/
@[simp] theorem sent_emit (e : Event) (s : State) : (emit e s).sent = s.sent ++ (sentByte e).toList := by
  cases h : sentByte e <;> simp [State.sent, h]

end Sys2Proof.Machine
end

