-- ==== Sys2Proof/Tests/Slice0.lean ====
section
/-! SUPPORT. Tests on small states, each from a vector of 95_test_vectors.md or another stated example of the spec, and a
witness for every obligation that has hypotheses. -/

namespace Sys2Proof.Tests

open Sys2Proof.Machine

/-! ### Helpers -/

/-- The configuration of the vectors: `N_TX = 4`, `N_RX = 8`, `T = 3`. -/
def small : Cfg :=
  { nTx := 4, nRx := 8, t := 3, policy := .block, ctsPresent := true, ctsInvert := false, hwgen := .genA,
    callback := false, w := 8 }

/-- The state after INIT. -/
def port : State := State.resetWith small

/-- The transmit instance at `TX(h,t)` with the bytes of vector E7. -/
def withTx (h t : Nat) (s : State) : State :=
  { s with tx := { head := h, tail := t, buf := [(0, 0x42), (1, 0x43), (2, 0x44), (3, 0x66)] }, txie := true }

/-- The receive instance at `RX(h,t)` with the bytes of section 8 of the vectors, and the gate. -/
def withRx (h t : Nat) (g : Gate) (s : State) : State :=
  { s with rx := { head := h, tail := t, buf := [(0, 0xA0), (1, 0xA1), (2, 0xA2), (3, 0xA3), (4, 0xA4), (5, 0xA5),
      (6, 0xA6), (7, 0xA7)] }
           gate := g, ctsPin := pinLevel s.cfg g }

/-- The state under the overflow policy Discard. -/
def discarding (s : State) : State := { s with cfg := { s.cfg with policy := .discard } }

/-- The state without flow control. -/
def ungated (s : State) : State := { s with cfg := { s.cfg with ctsPresent := false } }

/-- The state with an operation in progress. -/
def inside (u : Upc) (s : State) : State := { s with upc := u }

/-- The state with one request presented. -/
def asked (a : Agent) (w : OpWord) (s : State) : State := { s with input := [.request a w none] }

/-- The state a transition leaves, where it answers one. -/
def after (o : Host.Outcome State Fault Refusal) : Option State :=
  match o with
  | .next t => some t
  | .fault _ => none
  | .refused _ => none

/-- The state with one item presented. -/
def presented (x : Input) (s : State) : State := { s with input := [x] }

/-- The refusal a transition ends in, where it does. -/
def stop (o : Host.Outcome State Fault Refusal) : Option Refusal :=
  match o with
  | .next _ => none
  | .fault _ => none
  | .refused r => some r

/-! ### WellFormed: every check refuses an ill-formed term -/

/-- R13: each bound, broken by one. -/
theorem test_legal_bounds :
    Cfg.legal { small with nTx := 1 } = false ∧ Cfg.legal { small with nTx := 256 } = false ∧
    Cfg.legal { small with nRx := 1 } = false ∧ Cfg.legal { small with nRx := 256 } = false ∧
    Cfg.legal { small with t := 256 } = false ∧
    Cfg.legal { small with nTx := 2, nRx := 255, t := 255 } = true := by decide

/-- R128: a mainline operation from a handler, a handler's operation from mainline, any from the callback. -/
theorem test_wrong_agent :
    Instr.allowedFrom (.write true 0x41) .txHandler = false ∧ Instr.allowedFrom (.txisr true) .mainline = false ∧
    Instr.allowedFrom .tryread .callback = false ∧ Instr.allowedFrom .avail .mainline = true := by decide

/-- R62: a label of another rule, and a split of an atomic operation. -/
theorem test_foreign_label :
    Instr.splitsAt .tryread .w4 = false ∧ Instr.splitsAt .init .w0 = false ∧ Instr.splitsAt .txfree .f1 = true ∧
    stop (execUpto .tryread .w4 port) = some .foreignLabel ∧
    stop (execUpto .init .w0 port) = some .splitOfAtomic := by decide

/-- U21: every operation is refused under a configuration out of range; RESUME too. -/
theorem test_illegal_configuration_is_refused :
    stop (exec .avail { port with cfg := { small with nTx := 1 } }) = some .configOutOfRange ∧
    stop (resumeUpto none { port with cfg := { small with nTx := 1 } }) = some .configOutOfRange := by decide

/-- R62: RESUME with nothing in progress. -/
theorem test_resume_of_nothing : stop (step { port with input := [.resume none] }) = some .nothingInProgress := by
  decide

/-! ### Decoding (vectors V-E1, V-E2) -/

theorem test_decode_init : decode 0b0000000000000000#16 = .ok .init := by decide
theorem test_decode_write : decode 0b0001000111111111#16 = .ok (.write true 0xFF) := by decide
theorem test_decode_write_busy : decode 0b0001000001000001#16 = .ok (.write false 0x41) := by decide
theorem test_decode_txfree : decode 0b0010000000000000#16 = .ok .txfree := by decide
theorem test_decode_txidle : decode 0b0011000000000000#16 = .ok .txidle := by decide
theorem test_decode_tryread : decode 0b0100000000000000#16 = .ok .tryread := by decide
theorem test_decode_readb : decode 0b0101000000000000#16 = .ok .readb := by decide
theorem test_decode_avail : decode 0b0110000000000000#16 = .ok .avail := by decide
theorem test_decode_txisr : decode 0b1000000100000000#16 = .ok (.txisr true) := by decide
theorem test_decode_rxisr : decode 0b1001000100110001#16 = .ok (.rxisr false true 0x31) := by decide
theorem test_decode_rxisr_error : decode 0b1001001000010010#16 = .ok (.rxisr true false 0x12) := by decide

/-- V-E2: the reserved words. -/
theorem test_decode_reserved :
    [0x7000#16, 0xA000#16, 0xF000#16].map decode =
      [.error .operation, .error .operation, .error .operation] ∧
    [0x1441#16, 0x1841#16, 0x9400#16, 0x9931#16, 0xFFFF#16].map decode =
      [.error .zField, .error .zField, .error .zField, .error .zField, .error .zField] ∧
    [0x0001#16, 0x0100#16, 0x1241#16, 0x2001#16, 0x4100#16, 0x8001#16, 0x8200#16].map decode =
      [.error .mustBeZero, .error .mustBeZero, .error .mustBeZero, .error .mustBeZero, .error .mustBeZero,
        .error .mustBeZero, .error .mustBeZero] := by decide

/-- V-E1: the encoder, on the words with every field in use. -/
theorem test_encode :
    encode (.write true 0x41) = 0x1141#16 ∧ encode (.txisr true) = 0x8100#16 ∧
    encode (.rxisr true true 0xFF) = 0x93FF#16 ∧ encode (.rxisr true false 0x12) = 0x9212#16 := by decide

/-! ### Arithmetic (vectors V-A1, V-A2) -/

theorem test_offset_arithmetic :
    nextOffset 64 63 = 0 ∧ nextOffset 2 1 = 0 ∧ nextOffset 255 254 = 0 ∧
    occ 64 3 60 = 7 ∧ free 64 3 60 = 57 ∧ occ 32 30 31 = 31 ∧ isFull 32 30 31 = true ∧
    occ 8 0 3 = 5 ∧ isFull 2 1 0 = true ∧ free 2 1 1 = 2 := by decide

/-! ### One step of each operation -/

/-- V-I2: re-initialisation. -/
theorem test_init_again :
    (after (exec .init (withRx 6 2 .stop (withTx 3 1 port)))).map
      (fun t => ([t.tx.head, t.tx.tail, t.rx.head, t.rx.tail, t.tx.buf.length], t.gate, t.txie, t.rxie)) =
      some ([0, 0, 0, 0, 4], .go, false, true) := by decide

/-- V-G7: with an inverted pin INIT drives 0. -/
theorem test_init_inverted_pin :
    (after (exec .init (State.powerOn { small with ctsInvert := true }
      { txHead := 9, txTail := 7, rxHead := 1, rxTail := 2, gate := .stop, ctsPin := true, txie := true,
        rxie := false }))).map (fun t => (t.pin, t.trace)) =
      some (some false, [.uartConfigure, .ctsDrive false]) := by decide

/-- V-A4: a push at the wrap. -/
theorem test_write_wraps :
    (after (exec (.write false 0x77) (withTx 3 3 port))).map (fun t => (t.tx.head, t.slotByte .tx 3, t.result)) =
      some (0, 0x77, some { flag := false, value := 0x77 }) := by decide

/-- V-T5: full under Discard, ready or not. -/
theorem test_write_discards :
    (after (exec (.write true 0x44) (discarding (withTx 3 0 port)))).map
      (fun t => (t.tx.head, t.result, t.trace.getLast?)) =
      some (3, some { flag := false, value := 0 }, some (.note (.transmitOverflow 0x44))) := by decide

/-- V-T16: free space of a wrapped instance of occupancy 3. -/
theorem test_txfree :
    (after (exec .txfree (withTx 0 1 port))).map State.result = some (some { flag := false, value := 1 }) := by decide

/-- V-T18. -/
theorem test_txidle :
    (after (exec .txidle (withTx 3 2 port))).map State.result = some (some { flag := false, value := 0 }) := by decide

/-- V-T10, on the bytes of E7. -/
theorem test_txisr_pops :
    (after (exec (.txisr true) (withTx 3 0 port))).map (fun t => (t.tx.tail, t.txie, t.trace.getLast?)) =
      some (1, true, some (.txregWrite 0x42)) := by decide

/-- V-T11. -/
theorem test_txisr_disables :
    (after (exec (.txisr true) (withTx 1 1 port))).map (fun t => (t.tx.tail, t.txie)) = some (1, false) := by decide

/-- V-R11: the gate opens at the exact boundary. -/
theorem test_tryread_opens :
    (after (exec .tryread (withRx 7 1 .stop port))).map (fun t => (t.rx.tail, t.gate, t.result)) =
      some (2, .go, some { flag := true, value := 0xA1 }) := by decide

/-- V-R10: one byte short of the boundary it does not. -/
theorem test_tryread_keeps_stop :
    (after (exec .tryread (withRx 7 0 .stop port))).map (fun t => (t.rx.tail, t.gate, t.result)) =
      some (1, .stop, some { flag := true, value := 0xA0 }) := by decide

/-- V-R15, at the wrap. -/
theorem test_readb :
    (after (exec .readb (withRx 0 7 .go port))).map (fun t => (t.rx.tail, t.result, t.upc)) =
      some (0, some { flag := true, value := 0xA7 }, .idle) := by decide

/-- R99: a byte that comes in between T0 and T1 of a READB is found by the iteration that follows. -/
theorem test_readb_restarts :
    (after (resumeUpto none (inside (.t1 .readb 0) (withRx 1 0 .go port)))).map (fun t => (t.result, t.upc)) =
      some (some { flag := true, value := 0xA0 }, .idle) := by decide

/-- R62: a READB that stands at T1 of an empty instance, resumed up to T0, has performed T0 and latched the head. -/
theorem test_resume_readb_upto_t0 :
    (after (step (presented (.resume (some .t0)) (inside (.t1 .readb 3) (withRx 3 3 .go port))))).map State.upc =
      some (.t1 .readb 3) := by decide

/-- R62: resumed up to T1 it has performed T1 alone, and R99 leads back to T0. -/
theorem test_resume_readb_upto_t1 :
    (after (step (presented (.resume (some .t1)) (inside (.t1 .readb 3) (withRx 3 3 .go port))))).map State.upc =
      some (.t0 .readb) := by decide

/-- Power-on values that need nine bits or eight. -/
def wide : PowerOn :=
  { txHead := 256, txTail := 255, rxHead := 511, rxTail := 256, gate := .go, ctsPin := false, txie := false, rxie := false }

/-- R13, R16: what eight-bit offset registers hold, at power-on and when the configuration is supplied. -/
theorem test_offset_registers_have_width :
    (State.powerOn small wide).tx = { head := 0, tail := 255, buf := [] } ∧
    (after (step (presented (.configure small) (State.powerOn { small with w := 9 } wide)))).map State.rx =
      some { head := 255, tail := 0, buf := [] } := by decide

/-- V-R14. -/
theorem test_avail :
    (after (exec .avail (withRx 0 3 .go port))).map State.result = some (some { flag := true, value := 0 }) := by decide

/-- V-R3: the drop on a full instance stores the byte outside the live window. -/
theorem test_rxisr_drops :
    (after (exec (.rxisr false true 0x38) (withRx 7 0 .stop port))).map
      (fun t => (t.rx.head, t.slotByte .rx 7, t.gate)) = some (7, 0x38, .stop) := by decide

/-- V-R2: the gate closes at the exact boundary. -/
theorem test_rxisr_closes :
    (after (exec (.rxisr false true 0x36) (withRx 5 0 .go port))).map (fun t => (t.rx.head, t.gate, t.pin)) =
      some (6, .stop, some false) := by decide

/-- V-T8: the wait at W4, the pop inside it, the byte stored. -/
theorem test_write_waits_for_a_pop :
    (after (resumeUpto none (inside (.w4 0x45 3 0 none (some (0, 0))) (withTx 3 1 port)))).map
      (fun t => (t.tx.head, t.slotByte .tx 3, t.result)) =
      some (0, 0x45, some { flag := false, value := 0x45 }) := by decide

/-! ### Witnesses: states and operands that meet the hypotheses of each obligation -/

/-- What makes an armed state coherent, for the witnesses. -/
theorem coherent_of {s : State} (ha : Armed s)
    (ho : s.tx.head < s.cfg.nTx ∧ s.tx.tail < s.cfg.nTx ∧ s.rx.head < s.cfg.nRx ∧ s.rx.tail < s.cfg.nRx)
    (hb : (∀ c ∈ s.tx.buf, c.1 < s.cfg.nTx) ∧ ∀ c ∈ s.rx.buf, c.1 < s.cfg.nRx)
    (hl : LatchesInRange s) (hw : WriterCoherent s) (hg : GatedCoherent s) : Coherent s where
  widths := offsetsFitWidth_of_inRange ha.1 fun x => by cases x <;> simp [ho]
  untouched h := by simp [ha.2] at h
  legal _ := ha.1
  offsets _ x := by cases x <;> simp [ho]
  slots _ x := by cases x <;> [exact hb.1; exact hb.2]
  latches _ := hl
  writer _ := hw
  gated _ := hg

/-- An idle armed state within its bounds is coherent. -/
theorem coherent_idle {s : State} (hr : Ready s)
    (ho : s.tx.head < s.cfg.nTx ∧ s.tx.tail < s.cfg.nTx ∧ s.rx.head < s.cfg.nRx ∧ s.rx.tail < s.cfg.nRx)
    (hb : (∀ c ∈ s.tx.buf, c.1 < s.cfg.nTx) ∧ ∀ c ∈ s.rx.buf, c.1 < s.cfg.nRx) : Coherent s :=
  coherent_of hr.1 ho hb (by simp [LatchesInRange, hr.2, Upc.txOffsets, Upc.rxOffsets, Upc.rxCounts])
    (by simp [WriterCoherent, hr.2]) (by simp [GatedCoherent, hr.2, Upc.label])

theorem witness_EncodeOfDecodeIsIdentity : decode 0x93FF#16 = .ok (.rxisr true true 0xFF) := by decide

theorem witness_ReservedWordsAreRefused :
    decode 0x1241#16 = .error .mustBeZero ∧
    (asked .mainline 0x1241 port).input = .request .mainline 0x1241 none :: [] := by decide

/-- A Port at power-on. -/
def cold : State :=
  State.powerOn small
    { txHead := 200, txTail := 7, rxHead := 255, rxTail := 9, gate := .stop, ctsPin := true, txie := true, rxie := false }

theorem witness_StepPerformsTheRequest :
    ((asked .rxHandler 0x9131 port).input = .request .rxHandler 0x9131 none :: [] ∧
      decode 0x9131#16 = .ok (.rxisr false true 0x31) ∧ Instr.allowedFrom (.rxisr false true 0x31) .rxHandler = true) ∧
    (port.input = [] ∧ port.upc = .idle) ∧
    ((inside .a0 port).input = [] ∧ (inside .a0 port).upc.isIdle = false) := by decide

theorem witness_StepPerformsTheRequest_split :
    ((presented (.request .mainline 0x4000 (some .t2)) port).input = .request .mainline 0x4000 (some .t2) :: [] ∧
      decode 0x4000#16 = .ok .tryread ∧ Instr.allowedFrom .tryread .mainline = true ∧
      Instr.labels .tryread ≠ [] ∧ Label.w4 ∉ Instr.labels .tryread) ∧
    (decode 0x0000#16 = .ok .init ∧ Instr.allowedFrom .init .mainline = true ∧ Instr.labels .init = []) := by decide

theorem witness_StepPerformsTheRequest_resume :
    ((presented (.resume none) port).input = .resume none :: [] ∧ (presented (.resume none) port).upc = .idle) ∧
    (presented (.resume (some .t4)) (inside (.t1 .readb 0) port)).upc ≠ .idle ∧
    Label.t4 ∈ (inside (.t1 .readb 0) port).upc.labels ∧ Label.f1 ∉ (inside (.t1 .readb 0) port).upc.labels := by decide

theorem witness_StepPerformsTheRequest_configure :
    ((presented (.configure Cfg.standard) cold).input = .configure Cfg.standard :: [] ∧
      (presented (.configure Cfg.standard) cold).inited = false) ∧
    ((presented (.configure small) port).input = .configure small :: [] ∧
      (presented (.configure small) port).inited = true ∧ small = (presented (.configure small) port).cfg) := by decide

theorem witness_WrongContextIsRefused :
    (decode 0x4000#16 = .ok .tryread ∧ Instr.agent .tryread = .mainline ∧ Agent.callback ≠ .mainline ∧
      (asked .callback 0x4000 port).input = .request .callback 0x4000 none :: []) ∧
    (decode 0x8100#16 = .ok (.txisr true) ∧ Instr.agent (.txisr true) ≠ .mainline ∧
      (asked .mainline 0x8100 port).input = .request .mainline 0x8100 none :: []) ∧
    (Instr.agent (.txisr true) ≠ .rxHandler ∧
      (asked .rxHandler 0x8100 port).input = .request .rxHandler 0x8100 none :: []) := by decide

theorem witness_OperationsBeforeInitAreRefused :
    cold.cfg.legal = true ∧ cold.inited = false ∧ Instr.txfree ≠ .init ∧
    (asked .mainline 0x2000 cold).input = .request .mainline 0x2000 none :: [] ∧
    (asked .mainline 0x2000 cold).inited = false ∧ decode 0x2000#16 = .ok .txfree := by decide

theorem witness_MainlineOperationsDoNotOverlap :
    (inside (.w4 0x45 3 0 none (some (0, 0))) (withTx 3 0 port)).cfg.legal = true ∧
    (inside (.w4 0x45 3 0 none (some (0, 0))) (withTx 3 0 port)).inited = true ∧ Instr.agent .init = .mainline ∧
    (inside (.w4 0x45 3 0 none (some (0, 0))) (withTx 3 0 port)).upc.isIdle = false := by decide

theorem witness_ConfigurationIsLegalAndConstant :
    Cfg.legal { small with nTx := 256 } = false ∧ port.inited = true ∧ (∃ t, step port = .next t) ∧
    ({ port with input := [.configure Cfg.standard] }).input = .configure Cfg.standard :: [] ∧
    Cfg.standard ≠ port.cfg := ⟨by decide, rfl, ⟨_, rfl⟩, rfl, by decide⟩

theorem witness_InitResetsThePort :
    (withRx 6 2 .stop (withTx 3 1 port)).cfg.legal = true ∧ (withRx 6 2 .stop (withTx 3 1 port)).upc = .idle := by
  decide

theorem witness_ResetIsInitFromPowerOn :
    (Cfg.standard.legal = true ∧ Cfg.standard.ctsPresent = true) ∧
    Cfg.legal { small with ctsPresent := false } = true := by decide

theorem witness_InitEmptiesWithoutClearing :
    (∃ t, exec .init (withRx 6 2 .stop (withTx 3 1 port)) = .next t) ∧
    (∃ t, exec .init (ungated (withRx 6 2 .stop port)) = .next t) ∧
    (ungated (withRx 6 2 .stop port)).cfg.ctsPresent = false := ⟨⟨_, rfl⟩, ⟨_, rfl⟩, rfl⟩

theorem witness_OffsetArithmeticLaws :
    (2 ≤ 2 ∧ 1 < 2 ∧ 0 < 2 ∧ isFull 2 1 0 = true ∧ isEmpty 1 0 = false) ∧
    (2 ≤ 255 ∧ 254 < 255 ∧ isFull 255 254 254 = false ∧ isEmpty 254 254 = true) := by decide

theorem witness_WriteSendsOrQueuesTheByte :
    (Ready port ∧ port.tx.head = port.tx.tail) ∧
    (Ready (withTx 3 3 port) ∧ (withTx 3 3 port).tx.head < (withTx 3 3 port).cfg.nTx ∧
      ¬ ((withTx 3 3 port).tx.head = (withTx 3 3 port).tx.tail ∧ false = true) ∧
      nextOffset (withTx 3 3 port).cfg.nTx (withTx 3 3 port).tx.head ≠ (withTx 3 3 port).tx.tail) ∧
    (Ready (withTx 1 0 port) ∧ ¬ ((withTx 1 0 port).tx.head = (withTx 1 0 port).tx.tail ∧ true = true) ∧
      nextOffset (withTx 1 0 port).cfg.nTx (withTx 1 0 port).tx.head ≠ (withTx 1 0 port).tx.tail) := by decide

theorem witness_WriteDiscardsWhenFull :
    (Ready (discarding (withTx 3 0 port)) ∧ (discarding (withTx 3 0 port)).cfg.policy = .discard ∧
      nextOffset (discarding (withTx 3 0 port)).cfg.nTx (discarding (withTx 3 0 port)).tx.head =
        (discarding (withTx 3 0 port)).tx.tail) ∧
    (Armed (inside (.w4 0x44 3 0 none none) (discarding (withTx 3 0 port))) ∧
      nextOffset (inside (.w4 0x44 3 0 none none) (discarding (withTx 3 0 port))).cfg.nTx 3 =
        (inside (.w4 0x44 3 0 none none) (discarding (withTx 3 0 port))).tx.tail) := by decide

theorem witness_WriteWaitsWhenFull :
    (Ready (withTx 3 0 port) ∧ (withTx 3 0 port).cfg.policy = .block ∧
      nextOffset (withTx 3 0 port).cfg.nTx (withTx 3 0 port).tx.head = (withTx 3 0 port).tx.tail) ∧
    (Armed (inside (.w4 0x45 3 0 none (some (0, 0))) (withTx 3 0 port)) ∧
      nextOffset (withTx 3 0 port).cfg.nTx 3 = (withTx 3 0 port).tx.tail) ∧
    (Armed (inside (.w4 0x45 3 0 none (some (0, 0))) (withTx 3 1 port)) ∧ 3 < (withTx 3 1 port).cfg.nTx ∧
      nextOffset (withTx 3 1 port).cfg.nTx 3 ≠ (withTx 3 1 port).tx.tail) := by decide

theorem witness_WriteMicroProgram :
    Ready port ∧
    (∀ u ∈ [Upc.w0 0x45 true, .w1 0x45 true 0, .w2 0x45 false 0 0, .w3 0x45 0 0 true, .w4 0x45 3 1 none none,
        .w5 0x45 3 1 none 1 0, .w6 0x45 3 1 none 1 0, .w7 0x45 3 1 none (some (1, 0)) 0x45],
      Armed (inside u (withTx 3 1 port)) ∧ (inside u (withTx 3 1 port)).upc = u) ∧
    nextOffset (withTx 3 1 port).cfg.nTx 3 ≠ (withTx 3 1 port).tx.tail ∧ 3 < (withTx 3 1 port).cfg.nTx ∧
    (Armed (inside (.w4 0x45 3 0 none none) (withTx 3 0 port)) ∧
      nextOffset (withTx 3 0 port).cfg.nTx 3 = (withTx 3 0 port).tx.tail) := by decide

theorem witness_WriteAlwaysEnablesTheInterrupt :
    (∃ t, exec (.write true 0x41) port = .next t ∧ t.upc = .idle) ∧
    (inside (.w7 0x45 3 1 none none 0) port).upc.inWrite = true ∧
    (∃ t, advance (inside (.w7 0x45 3 1 none none 0) port) = .next t ∧ t.upc = .idle) :=
  ⟨⟨_, rfl, rfl⟩, by decide, ⟨_, rfl, rfl⟩⟩

theorem witness_WriteFrame :
    (∃ t, exec (.write false 0x44) (withTx 3 1 port) = .next t) ∧
    ((∃ t, exec (.write true 0x44) (withTx 3 0 port) = .next t) ∧ (withTx 3 0 port).full .tx = true) ∧
    ((∃ t, exec (.write true 0x44) port = .next t) ∧ port.empty .tx = true) :=
  ⟨⟨_, rfl⟩, ⟨⟨_, rfl⟩, by decide⟩, ⟨_, rfl⟩, by decide⟩

theorem witness_TxfreeReportsFreeSpace :
    Ready (withTx 0 1 port) ∧ Armed (inside (.f1 3) (withTx 3 0 port)) ∧ Coherent (inside (.f1 3) (withTx 3 0 port)) ∧
    (inside (.f1 3) (withTx 3 0 port)).upc = .f1 3 :=
  ⟨by decide, by decide, coherent_of (by decide) (by decide) (by decide)
    ⟨by decide, by decide, by decide⟩ (show 3 = 3 from rfl) (by unfold GatedCoherent; decide), rfl⟩

theorem witness_TxidleReportsEmpty :
    Ready (withTx 2 2 port) ∧ Armed (inside (.i1 3) (withTx 3 2 port)) ∧ (inside (.i1 3) (withTx 3 2 port)).upc = .i1 3 := by
  decide

theorem witness_TxisrPopsOrDisables :
    (Armed port ∧ ¬ (true = true ∧ port.txie = true)) ∧
    (Armed (withTx 1 3 port) ∧ (withTx 1 3 port).txie = true ∧ (withTx 1 3 port).tx.head ≠ (withTx 1 3 port).tx.tail ∧
      (withTx 1 3 port).tx.tail < (withTx 1 3 port).cfg.nTx) ∧
    (Armed (withTx 1 1 port) ∧ (withTx 1 1 port).txie = true ∧ (withTx 1 1 port).tx.head = (withTx 1 1 port).tx.tail) := by
  decide

theorem witness_TxisrFrame : ∃ t, exec (.txisr true) (withTx 1 3 port) = .next t := ⟨_, rfl⟩

theorem witness_QueryFrame :
    (∃ t, exec .txfree (withTx 1 3 port) = .next t) ∧ (∃ t, exec .txidle (withTx 1 3 port) = .next t) ∧
    (∃ t, exec .avail (withRx 1 3 .go port) = .next t) := ⟨⟨_, rfl⟩, ⟨_, rfl⟩, ⟨_, rfl⟩⟩

theorem witness_TryreadFindsNothing : Ready port ∧ port.rx.head = port.rx.tail := by decide

theorem witness_TryreadPopsTheOldestByte :
    (Ready (withRx 2 7 .go port) ∧ (withRx 2 7 .go port).rx.head ≠ (withRx 2 7 .go port).rx.tail ∧
      (withRx 2 7 .go port).rx.tail < (withRx 2 7 .go port).cfg.nRx) ∧
    (Ready (withRx 7 1 .stop port) ∧ (withRx 7 1 .stop port).gate = .stop ∧
      (withRx 7 1 .stop port).cfg.t ≤ free (withRx 7 1 .stop port).cfg.nRx 7 2) := by decide

theorem witness_ReadbRepeatsTryread :
    (Ready (withRx 2 7 .go port) ∧ (withRx 2 7 .go port).rx.head ≠ (withRx 2 7 .go port).rx.tail ∧
      (withRx 2 7 .go port).rx.tail < (withRx 2 7 .go port).cfg.nRx) ∧
    (Ready port ∧ port.rx.head = port.rx.tail) ∧
    (Armed (inside (.t0 .readb) port) ∧ (inside (.t0 .readb) port).upc = .t0 .readb) := by decide

theorem witness_ReadMicroProgram :
    Ready port ∧
    (∀ u ∈ [Upc.t0 .readb, .t1 .readb 6, .t1 .tryread 1, .t1 .readb 1, .t2 .tryread 6 7, .t3 .readb 6 7 0xA7,
        .t4 .readb 6 0 0xA0, .t5 .readb 6 0 0xA0 6 3, .t5 .readb 6 0 0xA0 6 2, .t6 .readb 6 0 0xA0 6 3 .stop],
      Armed (inside u (withRx 6 1 .stop port)) ∧ (inside u (withRx 6 1 .stop port)).upc = u) ∧
    ((withRx 6 1 .stop port).rx.tail = 1 ∧ (withRx 6 1 .stop port).gate = .stop ∧
      (withRx 6 1 .stop port).cfg.ctsPresent = true ∧ (withRx 6 1 .stop port).cfg.t = 3 ∧
      7 < (withRx 6 1 .stop port).cfg.nRx) ∧
    (Armed (inside (.t3 .readb 6 7 0xA7) (ungated (withRx 6 7 .stop port))) ∧
      (ungated (withRx 6 7 .stop port)).cfg.ctsPresent = false) := by decide

theorem witness_ReadFrame :
    (∃ t, exec .tryread (withRx 7 1 .stop port) = .next t) ∧ (∃ t, exec .readb (withRx 7 1 .stop port) = .next t) :=
  ⟨⟨_, rfl⟩, ⟨_, rfl⟩⟩

theorem witness_AvailReportsNotEmpty :
    Ready (withRx 0 3 .go port) ∧ Armed (inside (.a1 0) (withRx 0 3 .go port)) ∧
    (inside (.a1 0) (withRx 0 3 .go port)).upc = .a1 0 ∧
    (∃ t, exec (.txisr true) (withRx 0 3 .go port) = .next t) ∧
    (∃ t, exec (.rxisr false true 0x40) (withRx 0 1 .go port) = .next t) ∧ classify false true ≠ .hardwareError ∧
    (withRx 0 1 .go port).rx.head ≠ (withRx 0 1 .go port).rx.tail :=
  ⟨by decide, by decide, rfl, ⟨_, rfl⟩, ⟨_, rfl⟩, by decide, by decide⟩

theorem witness_RxisrWithoutFlagDoesNothing : Armed port := by decide

theorem witness_RxisrErrorRecovers : Armed (withRx 6 0 .stop port) := by decide

theorem witness_RxisrStoresTheByte :
    (Armed (withRx 7 0 .stop port) ∧ (withRx 7 0 .stop port).rx.head < (withRx 7 0 .stop port).cfg.nRx ∧
      nextOffset (withRx 7 0 .stop port).cfg.nRx (withRx 7 0 .stop port).rx.head = (withRx 7 0 .stop port).rx.tail) ∧
    (Armed (withRx 5 0 .go port) ∧ (withRx 5 0 .go port).rx.head < (withRx 5 0 .go port).cfg.nRx ∧
      free (withRx 5 0 .go port).cfg.nRx 6 0 < (withRx 5 0 .go port).cfg.t) := by decide

theorem witness_RxisrFrame :
    (∃ t, exec (.rxisr false true 0x38) (ungated (withRx 7 0 .go port)) = .next t) ∧
    (ungated (withRx 7 0 .go port)).cfg.ctsPresent = false ∧ classify false true = .data ∧
    ((∃ t, exec (.rxisr true false 0x38) (withRx 7 0 .go port) = .next t) ∧ classify true false ≠ .data) :=
  ⟨⟨_, rfl⟩, rfl, by decide, ⟨_, rfl⟩, by decide⟩

theorem witness_IgnoredFieldsHaveNoEffect : (withTx 1 0 port).tx.head ≠ (withTx 1 0 port).tx.tail := by decide

theorem witness_GateMovesOneWayAtEachEnd :
    (∃ t, exec (.rxisr false true 0x36) (withRx 5 0 .go port) = .next t ∧ t.freeSpace .rx < t.cfg.t) ∧
    (withRx 5 0 .go port).cfg.ctsPresent = true ∧
    (∃ t, exec .tryread (withRx 7 1 .stop port) = .next t ∧ t.rx.tail ≠ (withRx 7 1 .stop port).rx.tail ∧
      t.cfg.t ≤ t.freeSpace .rx) :=
  ⟨⟨_, rfl, by decide⟩, rfl, ⟨_, rfl, by decide, by decide⟩⟩

theorem witness_GateIsWrittenByItsOwnersOnly :
    (Coherent (asked .rxHandler 0x9136 (withRx 5 0 .go port)) ∧
      ∃ t, step (asked .rxHandler 0x9136 (withRx 5 0 .go port)) = .next t ∧
        t.gate ≠ (asked .rxHandler 0x9136 (withRx 5 0 .go port)).gate ∧ t.gate = .stop) ∧
    (Coherent (asked .mainline 0x4000 (withRx 7 1 .stop port)) ∧
      ∃ t, step (asked .mainline 0x4000 (withRx 7 1 .stop port)) = .next t ∧
        t.gate ≠ (asked .mainline 0x4000 (withRx 7 1 .stop port)).gate ∧ t.gate = .go) :=
  ⟨⟨coherent_idle (by decide) (by decide) (by decide), ⟨_, rfl, by decide, rfl⟩⟩,
    coherent_idle (by decide) (by decide) (by decide), ⟨_, rfl, by decide, rfl⟩⟩

theorem witness_AbsentGateIsNeverUsed :
    (ungated port).cfg.ctsPresent = false ∧ ∃ t, exec (.rxisr false true 0x31) (ungated port) = .next t :=
  ⟨rfl, _, rfl⟩

theorem witness_TxieIsWrittenByItsOwnersOnly :
    (∃ t, step (asked .mainline 0x1141 port) = .next t ∧ (asked .mainline 0x1141 port).txie = false ∧ t.txie = true) ∧
    (∃ t, step (asked .txHandler 0x8100 (withTx 1 1 port)) = .next t ∧
      (asked .txHandler 0x8100 (withTx 1 1 port)).txie = true ∧ t.txie = false) :=
  ⟨⟨_, rfl, rfl, rfl⟩, ⟨_, rfl, rfl, rfl⟩⟩

theorem witness_RxieIsSetByInitAndNeverCleared :
    (∃ t, exec .init cold = .next t) ∧
    (∃ t, step (asked .mainline 0x0000 cold) = .next t ∧ t.rxie ≠ (asked .mainline 0x0000 cold).rxie) ∧
    (∃ t, step port = .next t) ∧ ReceiveInterruptEnabled port :=
  ⟨⟨_, rfl⟩, ⟨_, rfl, by decide⟩, ⟨_, rfl⟩, fun _ => rfl⟩

theorem witness_MainlineMicroStepFrame :
    ((∃ t, advance (inside (.t2 .readb 6 1) (withRx 6 1 .go port)) = .next t) ∧
      (inside (.t2 .readb 6 1) (withRx 6 1 .go port)).upc.inWrite = false) ∧
    ((∃ t, advance (inside (.w5 0x45 3 1 none 1 0) (withTx 3 1 port)) = .next t) ∧
      Label.t0 ∉ (inside (.w5 0x45 3 1 none 1 0) (withTx 3 1 port)).upc.labels) ∧
    (∃ t, advance (inside (.t6 .readb 6 0 0xA0 6 3 .stop) (withRx 6 1 .stop port)) = .next t ∧
      t.gate ≠ (inside (.t6 .readb 6 0 0xA0 6 3 .stop) (withRx 6 1 .stop port)).gate) :=
  ⟨⟨⟨_, rfl⟩, by decide⟩, ⟨⟨_, rfl⟩, by decide⟩, ⟨_, rfl, by decide⟩⟩

theorem witness_HandlersCommute :
    ∃ a b, exec (.txisr true) (withRx 7 0 .go (withTx 1 3 port)) = .next a ∧
      exec (.rxisr false true 0x38) a = .next b := ⟨_, _, rfl, rfl⟩

theorem witness_SplitOperationEqualsWhole_label :
    (inside (.t1 .readb 0) port).upc.label = some .t1 ∧ (inside (.t1 .readb 0) port).upc.label ≠ some .t0 ∧
    (∃ t, advance (inside (.t1 .readb 0) port) = .next t ∧ t.upc ≠ .idle) ∧
    (∃ t, advance (inside (.t1 .tryread 0) port) = .next t ∧ t.upc = .idle) :=
  ⟨rfl, by decide, ⟨_, rfl, by decide⟩, ⟨_, rfl, rfl⟩⟩

theorem witness_SplitOperationEqualsWhole :
    (∃ t, execUpto (.write false 0x45) .w2 (withTx 3 3 port) = .next t ∧ t.upc ≠ .idle) ∧
    (∃ t, execUpto .tryread .t6 port = .next t ∧ t.upc = .idle) ∧
    (∃ t, resumeUpto (some .t4) (inside (.t2 .readb 6 1) (withRx 6 1 .go port)) = .next t ∧ t.upc ≠ .idle) ∧
    (∃ t, resumeUpto (some .t6) (inside (.t2 .readb 6 1) (withRx 6 1 .go port)) = .next t ∧ t.upc = .idle) :=
  ⟨⟨_, rfl, by decide⟩, ⟨_, rfl, rfl⟩, ⟨_, rfl, by decide⟩, ⟨_, rfl, rfl⟩⟩

theorem witness_OnlyWriteAndReadbWait :
    Ready (withTx 3 0 port) ∧ Coherent (withTx 3 0 port) ∧ Instr.agent (.write true 0x45) = .mainline ∧
    (∃ t, exec (.write true 0x45) (withTx 3 0 port) = .next t ∧ t.upc ≠ .idle) :=
  ⟨by decide, coherent_idle (by decide) (by decide) (by decide), rfl, ⟨_, rfl, by decide⟩⟩

theorem witness_PopReleasesWaitingWrite :
    Armed (inside (.w4 0x45 3 0 none (some (0, 0))) (withTx 3 0 port)) ∧
    Coherent (inside (.w4 0x45 3 0 none (some (0, 0))) (withTx 3 0 port)) ∧
    TransmitInterruptEnabled (inside (.w4 0x45 3 0 none (some (0, 0))) (withTx 3 0 port)) ∧
    (inside (.w4 0x45 3 0 none (some (0, 0))) (withTx 3 0 port)).full .tx = true :=
  ⟨by decide, coherent_of (by decide) (by decide) (by decide) ⟨by decide, by decide, by decide⟩ (show 3 = 3 from rfl)
    (by unfold GatedCoherent; decide), fun _ _ _ => rfl, by decide⟩

theorem witness_ByteReleasesWaitingReadb :
    (Armed (inside (.t0 .readb) port) ∧ Coherent (inside (.t0 .readb) port) ∧
      (inside (.t0 .readb) port).empty .rx = true) ∧
    (Armed (inside (.t1 .readb 0) port) ∧ Coherent (inside (.t1 .readb 0) port) ∧
      (inside (.t1 .readb 0) port).upc = .t1 .readb (inside (.t1 .readb 0) port).rx.head ∧
      (inside (.t1 .readb 0) port).empty .rx = true) :=
  ⟨⟨by decide, coherent_of (by decide) (by decide) (by decide) ⟨by decide, by decide, by decide⟩ trivial
    (by unfold GatedCoherent; decide), by decide⟩, by decide, coherent_of (by decide) (by decide) (by decide)
    ⟨by decide, by decide, by decide⟩ trivial (by unfold GatedCoherent; decide), rfl, by decide⟩

theorem witness_ErrorRecoveryInsideTryread :
    Ready (withRx 5 2 .go port) ∧ Coherent (withRx 5 2 .go port) ∧
    (withRx 5 2 .go port).rx.head ≠ (withRx 5 2 .go port).rx.tail ∧ (withRx 5 2 .go port).rx.head ≠ 0 ∧
    (withRx 5 2 .go port).cfg.ctsPresent = true :=
  ⟨by decide, coherent_idle (by decide) (by decide) (by decide), by decide, by decide, rfl⟩

theorem witness_ErrorRecoveryInsideTryread_boundaries :
    (Ready (withRx 3 3 .go port) ∧ Coherent (withRx 3 3 .go port) ∧ (withRx 3 3 .go port).rx.head ≠ 0) ∧
    (Ready (withRx 0 3 .go port) ∧ Coherent (withRx 0 3 .go port) ∧ (withRx 0 3 .go port).rx.head = 0) ∧
    (Ready (withRx 7 1 .stop port) ∧ Coherent (withRx 7 1 .stop port) ∧
      (withRx 7 1 .stop port).rx.head ≠ (withRx 7 1 .stop port).rx.tail ∧
      (withRx 7 1 .stop port).cfg.ctsPresent = true ∧ (withRx 7 1 .stop port).gate = .stop ∧
      (withRx 7 1 .stop port).cfg.t ≤
        free (withRx 7 1 .stop port).cfg.nRx 7 (nextOffset (withRx 7 1 .stop port).cfg.nRx 1)) :=
  ⟨⟨by decide, coherent_idle (by decide) (by decide) (by decide), by decide⟩,
    ⟨by decide, coherent_idle (by decide) (by decide) (by decide), rfl⟩, by decide,
    coherent_idle (by decide) (by decide) (by decide), by decide, rfl, rfl, by decide⟩

theorem witness_ErrorRecoveryInsideTryread_inProgress :
    ∀ u ∈ [Upc.t0 .readb, .t1 .readb 0, .t0 .tryread, .t1 .tryread 0, .t1 .readb 7, .t1 .tryread 3, .t2 .readb 6 7,
        .t3 .tryread 6 7 0xA7, .t4 .readb 6 0 0xA0, .t5 .readb 6 0 0xA0 6 3, .t6 .tryread 6 0 0xA0 6 3 .stop],
      Armed (inside u (withRx 6 1 .stop port)) ∧ Coherent (inside u (withRx 6 1 .stop port)) ∧
      (inside u (withRx 6 1 .stop port)).upc = u := by
  intro u hu
  have hl : LatchesInRange (inside u (withRx 6 1 .stop port)) := by
    unfold LatchesInRange
    revert u
    decide
  have hw : WriterCoherent (inside u (withRx 6 1 .stop port)) := by
    fin_cases hu <;> trivial
  exact ⟨(by decide : Armed (withRx 6 1 .stop port)), coherent_of (s := inside u (withRx 6 1 .stop port))
    (by decide : Armed (withRx 6 1 .stop port)) (by simp only [inside]; decide) (by simp only [inside]; decide) hl hw
    (fun _ => rfl), rfl⟩

theorem witness_StaleGateWrite :
    Ready (withRx 6 0 .stop port) ∧ Coherent (withRx 6 0 .stop port) ∧ (withRx 6 0 .stop port).cfg.ctsPresent = true ∧
    (withRx 6 0 .stop port).gate = .stop ∧ (withRx 6 0 .stop port).rx.head ≠ (withRx 6 0 .stop port).rx.tail ∧
    (withRx 6 0 .stop port).freeSpace .rx + 1 = (withRx 6 0 .stop port).cfg.t :=
  ⟨by decide, coherent_idle (by decide) (by decide) (by decide), rfl, rfl, by decide, by decide⟩

theorem witness_FreeSpaceAboveOneAdmitsAWrite :
    (Ready (withTx 3 1 port) ∧ Coherent (withTx 3 1 port) ∧ 1 < (withTx 3 1 port).freeSpace .tx) ∧
    (Ready (withTx 3 0 port) ∧ Coherent (withTx 3 0 port) ∧ (withTx 3 0 port).freeSpace .tx = 1) :=
  ⟨⟨by decide, coherent_idle (by decide) (by decide) (by decide), by decide⟩,
    by decide, coherent_idle (by decide) (by decide) (by decide), by decide⟩

theorem witness_TransmitStreamIsConserved :
    Coherent (withTx 1 3 port) ∧ Instr.txisr true ≠ .init ∧ ∃ t, exec (.txisr true) (withTx 1 3 port) = .next t :=
  ⟨coherent_idle (by decide) (by decide) (by decide), by decide, _, rfl⟩

theorem witness_TransmitStreamIsConserved_split :
    (Coherent (inside (.w6 0x66 3 1 none 1 0) (withTx 3 1 port)) ∧
      ∃ t, advance (inside (.w6 0x66 3 1 none 1 0) (withTx 3 1 port)) = .next t) ∧
    (Coherent (inside (.w4 0x45 3 0 none (some (0, 0))) (withTx 3 0 port)) ∧
      ∃ t, resumeUpto none (inside (.w4 0x45 3 0 none (some (0, 0))) (withTx 3 0 port)) = .next t ∧ t.owed = [0x45]) ∧
    (startOf (.write false 0x45) = some (.w0 0x45 false) ∧
      ∃ t, execUpto (.write false 0x45) .w5 (withTx 3 1 port) = .next t ∧ t.owed = [0x45]) :=
  ⟨⟨coherent_of (by decide) (by decide) (by decide) ⟨by decide, by decide, by decide⟩
      (show 3 = 3 ∧ 0 = nextOffset 4 3 ∧ 0 ≠ 1 ∧ _ = _ from ⟨rfl, rfl, by decide, rfl⟩)
      (by unfold GatedCoherent; decide), _, rfl⟩,
    ⟨coherent_of (by decide) (by decide) (by decide) ⟨by decide, by decide, by decide⟩ (show 3 = 3 from rfl)
      (by unfold GatedCoherent; decide), _, rfl, by decide⟩, rfl, _, rfl, by decide⟩

theorem witness_ReceiveQueueIsFifo :
    Coherent (withRx 2 7 .go port) ∧
    ((∃ t, exec (.rxisr false true 0x31) (withRx 2 7 .go port) = .next t) ∧ classify false true ≠ .hardwareError) ∧
    (∃ t, exec (.rxisr true true 0x31) (withRx 2 7 .go port) = .next t) ∧
    (∃ t, exec .tryread (withRx 2 7 .go port) = .next t) ∧ (∃ t, exec .readb (withRx 2 2 .go port) = .next t) ∧
    (∃ t, exec .avail (withRx 2 7 .go port) = .next t) :=
  ⟨coherent_idle (by decide) (by decide) (by decide), ⟨⟨_, rfl⟩, by decide⟩, ⟨_, rfl⟩, ⟨_, rfl⟩, ⟨_, rfl⟩, ⟨_, rfl⟩⟩

theorem witness_StepKeepsCoherent :
    Coherent (inside (.w5 0x45 3 1 none 1 0) (withTx 3 1 port)) ∧
    ∃ t, step (inside (.w5 0x45 3 1 none 1 0) (withTx 3 1 port)) = .next t :=
  ⟨coherent_of (by decide) (by decide) (by decide) ⟨by decide, by decide, by decide⟩ (show 3 = 3 ∧ 0 = nextOffset 4 3 ∧ 0 ≠ 1 by decide)
    (by unfold GatedCoherent; decide), _, rfl⟩

theorem witness_ResetIsCoherent : small.legal = true := by decide

theorem witness_CoherentStepNeverFaults : Coherent (withRx 2 7 .go (withTx 1 3 port)) :=
  coherent_idle (by decide) (by decide) (by decide)

theorem witness_StepKeepsPinFollowingGate :
    PinFollowsGate (asked .rxHandler 0x9136 (withRx 5 0 .go port)) ∧
    ∃ t, step (asked .rxHandler 0x9136 (withRx 5 0 .go port)) = .next t := ⟨fun _ _ => rfl, _, rfl⟩

theorem witness_StepKeepsTransmitInterruptEnabled :
    TransmitInterruptEnabled (asked .txHandler 0x8100 (withTx 1 3 port)) ∧
    ∃ t, step (asked .txHandler 0x8100 (withTx 1 3 port)) = .next t := ⟨fun _ _ _ => rfl, _, rfl⟩

theorem witness_StepKeepsMemoryCanonical :
    MemoryCanonical (asked .mainline 0x1077 (withTx 3 3 port)) ∧
    ∃ t, step (asked .mainline 0x1077 (withTx 3 3 port)) = .next t :=
  ⟨fun x => by cases x <;> decide, _, rfl⟩

theorem witness_StepKeepsResultsInWidth :
    ResultFits (asked .mainline 0x2000 (withTx 0 1 port)) ∧
    ∃ t, step (asked .mainline 0x2000 (withTx 0 1 port)) = .next t :=
  ⟨fun _ r h => by simp [asked, withTx, port, State.resetWith] at h, _, rfl⟩

end Sys2Proof.Tests
end

