-- ==== Sys2Proof/Proofs/Scope.lean ====
section
/-! PROOF. The statements of 00_scope.md: the configuration is legal and constant (R13, R14), and a Port without
flow-control wiring uses no gate (R9, R77). -/

namespace Sys2Proof.Machine

/-! ### The arms of `exec` -/

/-- An operation with a micro-program is issued at its first label. -/
theorem exec_of_startOf {i : Instr} {u : Upc} (h : startOf i = some u) (s : State) : exec i s = issue u s := by
  cases i <;> simp only [startOf, Option.some.injEq, reduceCtorEq] at h <;> subst h <;> rfl

/-- An operation has a micro-program or is one of the three atomic ones (R41, R111). -/
theorem startOf_cases (i : Instr) :
    (∃ u, startOf i = some u) ∨ i = .init ∨ (∃ f, i = .txisr f) ∨ ∃ e f d, i = .rxisr e f d := by
  cases i <;> simp [startOf]

/-! ### A configuration out of range -/

theorem blocked_of_illegal {s : State} (h : s.cfg.legal = false) : blocked s = some .configOutOfRange := by
  simp [blocked, h]

theorem blockedMainline_of_illegal {s : State} (h : s.cfg.legal = false) :
    blockedMainline s = some .configOutOfRange := by
  simp [blockedMainline, blocked_of_illegal h]

theorem blockedInit_of_illegal {s : State} (h : s.cfg.legal = false) :
    blockedInit s = some .configOutOfRange := by
  simp [blockedInit, h]

/-- Every operation is refused under a configuration out of range (U21). -/
theorem exec_of_illegal (i : Instr) {s : State} (h : s.cfg.legal = false) :
    exec i s = .refused .configOutOfRange := by
  obtain ⟨u, hu⟩ | rfl | ⟨f, rfl⟩ | ⟨e, f, d, rfl⟩ := startOf_cases i
  · rw [exec_of_startOf hu, issue, issueUpto, blockedMainline_of_illegal h]
  · rw [exec, execInit, blockedInit_of_illegal h]
  · rw [exec, execTxisr, blocked_of_illegal h]
  · rw [exec, execRxisr, blocked_of_illegal h]

/-! ### The configuration after INIT -/

/-- INIT has completed, under the configuration `c`. -/
def InitedWith (c : Cfg) (s : State) : Prop := s.inited = true ∧ s.cfg = c

/-- No transition writes the configuration once INIT has completed: the only one that writes it comes before (R14). -/
theorem kept_initedWith (c : Cfg) : Kept (InitedWith c) where
  input _ _ hs := hs
  configure _ _ hi hs := by simp [InitedWith, hi] at hs
  init _ _ _ hs := ⟨initialise_inited _, (initialise_cfg _).trans hs.2⟩
  start _ _ _ _ hs := hs
  micro _ _ _ hs hm := by
    obtain ⟨hc, -, hi, -⟩ := microStep_frame hm
    exact ⟨hi.trans hs.1, hc.trans hs.2⟩
  transmit s _ _ _ hs ht := by
    obtain ⟨-, rfl⟩ | ⟨-, -, -, rfl⟩ | ⟨-, -, -, -, rfl⟩ := transmitHandler_next ht <;> exact hs
  receive s _ _ _ _ _ hs ht := by
    obtain ⟨-, rfl⟩ | ⟨-, -, rfl⟩ | ⟨-, -, -, rfl⟩ := receiveHandler_next ht
    · exact hs
    · exact ⟨(recoverReceive_inited s).trans hs.1, (recoverReceive_cfg s).trans hs.2⟩
    · simpa [InitedWith, receivedAtHead] using hs

/-- A step that is asked to change the configuration after INIT is refused (R14). -/
theorem step_configure_changed {s : State} {c : Cfg} {rest : List Input} (hi : s.inited = true)
    (hin : s.input = .configure c :: rest) (hc : c ≠ s.cfg) : step s = .refused .configChanged := by
  simp [step, hin, perform, performConfigure, hi, hc]

/-- Settles O10: the refusals are read off what blocks an operation, and constancy is a kept property. -/
theorem configurationIsLegalAndConstant : Obligations.ConfigurationIsLegalAndConstant := by
  refine ⟨fun i s h => exec_of_illegal i h, fun c => ?_, fun s t hi h => ?_, fun s c rest => step_configure_changed⟩
  · rw [legal_iff, and_assoc, and_assoc]
  · exact ((kept_initedWith s.cfg).step ⟨hi, rfl⟩ h).2

/-! ### A Port without a gate: its transitions -/

/-- The Port has no gate, and the operation in progress does not stand at one of the gate's micro-steps. -/
structure Ungated (s : State) : Prop where
  absent : s.cfg.ctsPresent = false
  notAtGate : GatedCoherent s

theorem openGate_of_absent {s : State} (h : s.cfg.ctsPresent = false) : openGate s = s := by
  simp [openGate, h]

theorem closeGate_of_absent {s : State} (h : s.cfg.ctsPresent = false) : closeGate s = s := by
  simp [closeGate, h]

/-- Every mainline operation starts away from the gate. -/
theorem ungated_start {s : State} {u : Upc} (h : s.cfg.ctsPresent = false) (hu : IsStart u) : Ungated (goTo u s) :=
  ⟨h, by cases hu <;> simp [GatedCoherent, Upc.label]⟩

theorem Ungated.upc_ne_t4 {s : State} (hs : Ungated s) {op : ReadOp} {h t : Nat} {b : Byte} :
    s.upc ≠ .t4 op h t b := fun hu => by
  simpa [hs.absent] using hs.notAtGate (.inl (by rw [hu]; rfl))

theorem Ungated.upc_ne_t5 {s : State} (hs : Ungated s) {op : ReadOp} {h t h2 f : Nat} {b : Byte} :
    s.upc ≠ .t5 op h t b h2 f := fun hu => by
  simpa [hs.absent] using hs.notAtGate (.inr (.inl (by rw [hu]; rfl)))

theorem Ungated.upc_ne_t6 {s : State} (hs : Ungated s) {op : ReadOp} {h t h2 f : Nat} {b : Byte} {g : Gate} :
    s.upc ≠ .t6 op h t b h2 f g := fun hu => by
  simpa [hs.absent] using hs.notAtGate (.inr (.inr (by rw [hu]; rfl)))

/-- Without a gate a read ends at T3, so no micro-step comes to T4 (R77, R96). -/
theorem microStep_ungated {s t : State} (hs : Ungated s) (h : (microStep s).state? = some t) : Ungated t := by
  refine ⟨(congrArg Cfg.ctsPresent (microStep_frame h).1).trans hs.absent, ?_⟩
  cases microStep_cases h
  case idle => exact hs.notAtGate
  case t3 hc => simp [hs.absent] at hc
  case t4 hu => exact absurd hu hs.upc_ne_t4
  case t5 hu _ => exact absurd hu hs.upc_ne_t5
  all_goals simp [GatedCoherent, Upc.label]

/-! ### What stands in the place of gate and pin -/

/-- The state with `g` and `p` in the place of the gate and the pin. -/
def State.withGatePin (g : Gate) (p : Bool) (s : State) : State := { s with gate := g, ctsPin := p }

/-- The progress with its state changed. -/
def Progress.map (k : State → State) : Progress → Progress
  | .onward s => .onward (k s)
  | .waiting s => .waiting (k s)
  | .done s => .done (k s)
  | .fault r => .fault r

/-- A branch on one condition commutes with `k` where both its arms do. -/
theorem ite_eq_apply_ite {α β : Type} {k : α → β} {c : Prop} [Decidable c] {a b : α} {a' b' : β}
    (ha : a' = k a) (hb : b' = k b) : (if c then a' else b') = k (if c then a else b) := by
  split <;> assumption

section
variable (g : Gate) (p : Bool)

@[simp] theorem withGatePin_cfg (s : State) : (s.withGatePin g p).cfg = s.cfg := rfl
@[simp] theorem withGatePin_upc (s : State) : (s.withGatePin g p).upc = s.upc := rfl

/-! The named operations, none of which touches the gate. -/

theorem memRead_withGatePin (x : Side) (o : Nat) (s : State) :
    memRead x o (s.withGatePin g p) = memRead x o s := by
  cases x <;> rfl

theorem memWrite_withGatePin (x : Side) (o : Nat) (v : Byte) (s : State) :
    memWrite x o v (s.withGatePin g p) = (memWrite x o v s).map (State.withGatePin g p) := by
  cases x <;> exact ite_eq_apply_ite rfl rfl

theorem popStep_withGatePin (x : Side) (s : State) :
    popStep x (s.withGatePin g p) = (popStep x s).map (Prod.map id (State.withGatePin g p)) := by
  have hx : (s.withGatePin g p).fifo x = s.fifo x := by cases x <;> rfl
  unfold popStep
  rw [hx, memRead_withGatePin]
  cases memRead x (s.fifo x).tail s
  · rfl
  · cases x <;> rfl

theorem noteOverflowOnce_withGatePin (d : Byte) (seen : Option (Nat × Nat)) (s : State) :
    noteOverflowOnce d seen (s.withGatePin g p) = (noteOverflowOnce d seen s).withGatePin g p := by
  cases seen <;> rfl

/-! The labels whose micro-step takes a branch. -/

theorem microW2_withGatePin (d : Byte) (f : Bool) (h t : Nat) (s : State) :
    microW2 d f h t (s.withGatePin g p) = (microW2 d f h t s).map (State.withGatePin g p) := by
  cases f <;> rfl

theorem microW4_withGatePin (d : Byte) (h t : Nat) (r : Option Bool) (seen : Option (Nat × Nat)) (s : State) :
    microW4 d h t r seen (s.withGatePin g p) = (microW4 d h t r seen s).map (State.withGatePin g p) := by
  refine ite_eq_apply_ite ?_ rfl
  rw [withGatePin_cfg, noteOverflowOnce_withGatePin]
  cases s.cfg.policy <;> rfl

theorem microW5_withGatePin (d : Byte) (h t : Nat) (r : Option Bool) (t2 n : Nat) (s : State) :
    microW5 d h t r t2 n (s.withGatePin g p) = (microW5 d h t r t2 n s).map (State.withGatePin g p) := by
  unfold microW5
  rw [memWrite_withGatePin]
  cases memWrite .tx h d s <;> rfl

theorem notFound_withGatePin (op : ReadOp) (s : State) :
    notFound op (s.withGatePin g p) = (notFound op s).map (State.withGatePin g p) := by
  cases op
  · rfl
  · exact ite_eq_apply_ite rfl rfl

theorem microT2_withGatePin (op : ReadOp) (h t : Nat) (s : State) :
    microT2 op h t (s.withGatePin g p) = (microT2 op h t s).map (State.withGatePin g p) := by
  unfold microT2
  rw [memRead_withGatePin]
  cases memRead .rx t s <;> rfl

/-- Away from the gate a micro-step neither reads nor writes what stands in the place of gate and pin. -/
theorem microStep_withGatePin {s : State} (hs : Ungated s) :
    microStep (s.withGatePin g p) = (microStep s).map (State.withGatePin g p) := by
  unfold microStep
  rw [withGatePin_upc]
  cases hu : s.upc
  case w1 => exact ite_eq_apply_ite rfl rfl
  case w2 => exact microW2_withGatePin g p ..
  case w4 => exact microW4_withGatePin g p ..
  case w5 => exact microW5_withGatePin g p ..
  case t1 => exact ite_eq_apply_ite (notFound_withGatePin g p ..) rfl
  case t2 => exact microT2_withGatePin g p ..
  case t3 => exact ite_eq_apply_ite rfl rfl
  case t5 => exact absurd hu hs.upc_ne_t5
  case t6 => exact absurd hu hs.upc_ne_t6
  all_goals rfl

/-- Nor does a run of micro-steps, which comes to no label of the gate. -/
theorem runMicro_withGatePin {upto : Option Label} {k : Nat} {s : State} (hs : Ungated s) :
    runMicro upto k (s.withGatePin g p) = mapNext (State.withGatePin g p) (runMicro upto k s) := by
  induction k generalizing s with
  | zero => rfl
  | succ k ih =>
    unfold runMicro
    rw [microStep_withGatePin g p hs]
    cases hm : microStep s with
    | onward t => exact ite_eq_apply_ite rfl (ih (microStep_ungated hs (congrArg Progress.state? hm)))
    | waiting t => exact ite_eq_apply_ite (ih (microStep_ungated hs (congrArg Progress.state? hm))) rfl
    | done t => rfl
    | fault r => rfl

/-! The three atomic transitions. -/

theorem initialise_withGatePin {s : State} (h : s.cfg.ctsPresent = false) :
    initialise (s.withGatePin g p) = (initialise s).withGatePin g p := by
  unfold initialise
  rw [openGate_of_absent (by exact h), openGate_of_absent (by exact h)]
  rfl

theorem transmitHandler_withGatePin (f : Bool) (s : State) :
    transmitHandler f (s.withGatePin g p) = mapNext (State.withGatePin g p) (transmitHandler f s) := by
  refine ite_eq_apply_ite (ite_eq_apply_ite rfl ?_) rfl
  rw [popStep_withGatePin]
  cases popStep .tx s <;> rfl

theorem recoverReceive_withGatePin {s : State} (h : s.cfg.ctsPresent = false) :
    recoverReceive (s.withGatePin g p) = (recoverReceive s).withGatePin g p := by
  unfold recoverReceive
  rw [openGate_of_absent (by exact h), openGate_of_absent (by exact h)]
  rfl

theorem invokeCallback_withGatePin (v : Byte) (s : State) :
    invokeCallback v (s.withGatePin g p) = (invokeCallback v s).withGatePin g p := ite_eq_apply_ite rfl rfl

theorem commitOrDrop_withGatePin (v : Byte) (s : State) :
    commitOrDrop v (s.withGatePin g p) = (commitOrDrop v s).withGatePin g p := ite_eq_apply_ite rfl rfl

theorem closeGate_withGatePin {s : State} (h : s.cfg.ctsPresent = false) :
    closeGate (s.withGatePin g p) = (closeGate s).withGatePin g p := by
  rw [closeGate_of_absent h, closeGate_of_absent (by exact h)]

theorem receiveData_withGatePin (v : Byte) {s : State} (h : s.cfg.ctsPresent = false) :
    receiveData v (s.withGatePin g p) = mapNext (State.withGatePin g p) (receiveData v s) := by
  have hw : memWrite .rx (s.withGatePin g p).rx.head v (emit .rxregRead (s.withGatePin g p)) =
      (memWrite .rx s.rx.head v (emit .rxregRead s)).map (State.withGatePin g p) :=
    memWrite_withGatePin g p .rx s.rx.head v (emit .rxregRead s)
  unfold receiveData
  rw [hw]
  cases hs : memWrite .rx s.rx.head v (emit .rxregRead s) with
  | error r => rfl
  | ok s' =>
    obtain ⟨-, rfl⟩ := memWrite_ok hs
    simp only [Except.map, mapNext, invokeCallback_withGatePin, commitOrDrop_withGatePin]
    rw [closeGate_withGatePin g p (by simpa using h)]

theorem receiveHandler_withGatePin (e f : Bool) (d : Byte) {s : State} (h : s.cfg.ctsPresent = false) :
    receiveHandler e f d (s.withGatePin g p) = mapNext (State.withGatePin g p) (receiveHandler e f d s) := by
  unfold receiveHandler
  cases classify e f with
  | noEvent => rfl
  | hardwareError => exact congrArg Host.Outcome.next (recoverReceive_withGatePin g p h)
  | data => exact receiveData_withGatePin g p d h

/-- Without a gate no operation reads or writes what stands in its place: each is refused alike, or its transition
commutes with the change. -/
theorem exec_withGatePin (i : Instr) {s : State} (h : s.cfg.ctsPresent = false) :
    exec i (s.withGatePin g p) = mapNext (State.withGatePin g p) (exec i s) := by
  have hb : blocked (s.withGatePin g p) = blocked s := rfl
  obtain ⟨u, hu⟩ | rfl | ⟨f, rfl⟩ | ⟨e, f, d, rfl⟩ := startOf_cases i
  · have hm : blockedMainline (s.withGatePin g p) = blockedMainline s := rfl
    rw [exec_of_startOf hu, exec_of_startOf hu, issue, issue, issueUpto, issueUpto, hm]
    cases blockedMainline s with
    | some r => rfl
    | none => exact runMicro_withGatePin g p (ungated_start h (isStart_of_startOf hu))
  · have hi : blockedInit (s.withGatePin g p) = blockedInit s := rfl
    rw [exec, exec, execInit, execInit, hi, initialise_withGatePin g p h]
    cases blockedInit s <;> rfl
  · rw [exec, exec, execTxisr, execTxisr, hb, transmitHandler_withGatePin]
    cases blocked s <;> rfl
  · rw [exec, exec, execRxisr, execRxisr, hb, receiveHandler_withGatePin g p e f d h]
    cases blocked s <;> rfl

end

/-! ### The trace of a Port without a gate -/

/-- The trace of `t` is that of `s` with events added, of which none drives the pin. -/
def AddsNoDrive (s t : State) : Prop := ∃ es : List Event, t.trace = s.trace ++ es ∧ ∀ l, Event.ctsDrive l ∉ es

theorem addsNoDrive_of_trace_eq {s t : State} (h : t.trace = s.trace) : AddsNoDrive s t := ⟨[], by simp [h]⟩

theorem AddsNoDrive.trans {s t u : State} (hst : AddsNoDrive s t) (htu : AddsNoDrive t u) : AddsNoDrive s u := by
  obtain ⟨es, hs, hes⟩ := hst
  obtain ⟨fs, ht, hfs⟩ := htu
  exact ⟨es ++ fs, by rw [ht, hs, List.append_assoc], fun l => by simp [hes l, hfs l]⟩

theorem addsNoDrive_emit {e : Event} (he : ∀ l, Event.ctsDrive l ≠ e) (s : State) : AddsNoDrive s (emit e s) :=
  ⟨[e], rfl, fun l => by simpa using he l⟩

theorem addsNoDrive_noteOverflowOnce (d : Byte) (seen : Option (Nat × Nat)) (s : State) :
    AddsNoDrive s (noteOverflowOnce d seen s) := by
  cases seen with
  | none => exact addsNoDrive_emit (by simp) s
  | some _ => exact addsNoDrive_of_trace_eq rfl

theorem addsNoDrive_flush (s : State) : AddsNoDrive s (flush s) := by
  refine ⟨_, List.append_assoc .., fun l => ?_⟩
  cases s.cfg.hwgen <;> simp

theorem addsNoDrive_invokeCallback (v : Byte) (s : State) : AddsNoDrive s (invokeCallback v s) := by
  unfold invokeCallback
  split
  · exact addsNoDrive_emit (by simp) s
  · exact addsNoDrive_of_trace_eq rfl

theorem addsNoDrive_commitOrDrop (v : Byte) (s : State) : AddsNoDrive s (commitOrDrop v s) := by
  unfold commitOrDrop
  split
  · exact addsNoDrive_emit (by simp) s
  · exact addsNoDrive_of_trace_eq rfl

/-- Away from the gate a micro-step drives no pin. -/
theorem microStep_addsNoDrive {s t : State} (hs : Ungated s) (h : (microStep s).state? = some t) :
    AddsNoDrive s t := by
  cases microStep_cases h
  case w3 => exact addsNoDrive_emit (by simp) s
  case w4Discard => exact addsNoDrive_noteOverflowOnce _ _ s
  case w4Wait => exact addsNoDrive_noteOverflowOnce _ _ s
  case t6 hu => exact absurd hu hs.upc_ne_t6
  all_goals exact addsNoDrive_of_trace_eq rfl

theorem runMicro_addsNoDrive {upto : Option Label} {k : Nat} {s t : State} (ha : Armed s) (hs : Ungated s)
    (h : runMicro upto k s = .next t) : AddsNoDrive s t :=
  (runMicro_keeps (P := fun x => Ungated x ∧ AddsNoDrive s x)
    (fun _ _ _ hx hm => ⟨microStep_ungated hx.1 hm, hx.2.trans (microStep_addsNoDrive hx.1 hm)⟩)
    ha ⟨hs, addsNoDrive_of_trace_eq rfl⟩ h).1.2

theorem initialise_addsNoDrive {s : State} (h : s.cfg.ctsPresent = false) : AddsNoDrive s (initialise s) :=
  ⟨[.uartConfigure], by simp [h], by simp⟩

theorem transmitHandler_addsNoDrive {f : Bool} {s t : State} (h : transmitHandler f s = .next t) :
    AddsNoDrive s t := by
  obtain ⟨-, rfl⟩ | ⟨-, -, -, rfl⟩ | ⟨-, -, -, -, rfl⟩ := transmitHandler_next h
  · exact addsNoDrive_of_trace_eq rfl
  · exact addsNoDrive_of_trace_eq rfl
  · exact addsNoDrive_emit (by simp) (writeTail .tx _ s)

theorem recoverReceive_addsNoDrive {s : State} (h : s.cfg.ctsPresent = false) : AddsNoDrive s (recoverReceive s) := by
  unfold recoverReceive
  rw [openGate_of_absent (by exact h)]
  exact (addsNoDrive_emit (by simp) s).trans (addsNoDrive_flush (raise .receiveHardwareError s))

theorem receiveHandler_addsNoDrive {e f : Bool} {d : Byte} {s t : State} (hc : s.cfg.ctsPresent = false)
    (h : receiveHandler e f d s = .next t) : AddsNoDrive s t := by
  obtain ⟨-, rfl⟩ | ⟨-, -, rfl⟩ | ⟨-, -, -, rfl⟩ := receiveHandler_next h
  · exact addsNoDrive_of_trace_eq rfl
  · exact recoverReceive_addsNoDrive hc
  · rw [closeGate_of_absent (by simpa [receivedAtHead] using hc)]
    have hstore : AddsNoDrive s (receivedAtHead d s) := addsNoDrive_emit (by simp) s
    exact (hstore.trans (addsNoDrive_invokeCallback d _)).trans (addsNoDrive_commitOrDrop d _)

/-- Without a gate no operation drives the pin. -/
theorem exec_addsNoDrive {i : Instr} {s t : State} (hc : s.cfg.ctsPresent = false) (h : exec i s = .next t) :
    AddsNoDrive s t := by
  obtain ⟨-, -, -, rfl⟩ | ⟨u, hu, hr, h⟩ | ⟨f, -, -, h⟩ | ⟨e, f, d, -, -, h⟩ := exec_next h
  · exact initialise_addsNoDrive hc
  · exact runMicro_addsNoDrive (s := goTo u s) hr.1 (ungated_start hc (isStart_of_startOf hu)) h
  · exact transmitHandler_addsNoDrive h
  · exact receiveHandler_addsNoDrive hc h

/-- Settles O39: the gate's micro-steps are never reached, and the two transitions of the gate do nothing. -/
theorem absentGateIsNeverUsed : Obligations.AbsentGateIsNeverUsed :=
  fun _ i hc => ⟨fun g p => exec_withGatePin g p i hc, fun _ h => exec_addsNoDrive hc h⟩

end Sys2Proof.Machine
end

section
/-! PROOF. The statements of 10_state.md: every step keeps a coherent state coherent; over all steps, who writes the gate,
the pin and the interrupt enables (R22 to R26); power-on and reset (R31). -/

namespace Sys2Proof.Machine

/-! ### Coherent states -/

/-- What holds of both FIFOs. -/
theorem forall_side {p : Side → Prop} : (∀ x, p x) ↔ p .tx ∧ p .rx :=
  ⟨fun h => ⟨h .tx, h .rx⟩, fun h x => by cases x <;> simp [h]⟩

/-- After INIT the range of the offsets gives the width, so that an armed Port is coherent by the other five. -/
theorem coherent_of_armed {s : State} (ha : Armed s) (ho : OffsetsInRange s) (hs : SlotsInRange s)
    (hl : LatchesInRange s) (hw : WriterCoherent s) (hg : GatedCoherent s) : Coherent s where
  widths := offsetsFitWidth_of_inRange ha.1 ho
  untouched h := by simp [ha.2] at h
  legal _ := ha.1
  offsets _ := ho
  slots _ := hs
  latches _ := hl
  writer _ := hw
  gated _ := hg

/-- The capacities of a legal configuration are positive (R13). -/
theorem cap_pos {s : State} (hl : s.cfg.legal = true) (x : Side) : 0 < s.cap x := by
  obtain ⟨hTx, -, hRx, -⟩ := (legal_iff s.cfg).mp hl
  cases x <;> simp <;> omega

theorem next_lt_cap {s : State} (hl : s.cfg.legal = true) (x : Side) (o : Nat) : s.next x o < s.cap x :=
  nextOffset_lt o (cap_pos hl x)

/-- A store in a slot that exists leaves written only slots that exist. -/
theorem slots_set {n o : Nat} {m : Memory} {v : Byte} (ho : o < n) (hm : ∀ c ∈ m, c.1 < n) :
    ∀ c ∈ Memory.set m o v, c.1 < n := by
  intro c hc
  obtain rfl | hc := Memory.mem_set hc
  · exact ho
  · exact hm c hc

/-! What the latches, the writer and the gate's micro-steps depend on. -/

theorem latchesInRange_congr {s t : State} (hu : t.upc = s.upc) (hc : t.cfg = s.cfg) (h : LatchesInRange s) :
    LatchesInRange t := by
  rwa [LatchesInRange, hu, hc]

theorem gatedCoherent_congr {s t : State} (hu : t.upc = s.upc) (hc : t.cfg = s.cfg) (h : GatedCoherent s) :
    GatedCoherent t := by
  rwa [GatedCoherent, hu, hc]

theorem latchesInRange_of_idle {s : State} (hu : s.upc = .idle) : LatchesInRange s := by
  simp [LatchesInRange, hu, Upc.txOffsets, Upc.rxOffsets, Upc.rxCounts]

theorem gatedCoherent_of_idle {s : State} (hu : s.upc = .idle) : GatedCoherent s := by
  simp [GatedCoherent, hu, Upc.label]

theorem writerCoherent_congr {s t : State} (hu : t.upc = s.upc) (hc : t.cfg = s.cfg) (ht : t.tx = s.tx)
    (h : WriterCoherent s) : WriterCoherent t := by
  simp only [WriterCoherent, hu, ht, next_tx, hc, State.slotByte, fifo_tx] at h ⊢
  exact h

/-! ### Micro-steps of a coherent Port -/

/-- A micro-step writes an offset register with a latched candidate or a `next`. -/
theorem microStep_offsetsInRange {s t : State} (hl : s.cfg.legal = true) (ho : OffsetsInRange s)
    (hv : LatchesInRange s) (h : (microStep s).state? = some t) : OffsetsInRange t := by
  have hn := next_lt_cap hl .rx
  simp only [OffsetsInRange, forall_side, fifo_tx, fifo_rx, cap_tx, cap_rx] at ho hn ⊢
  cases microStep_cases h
  case w6 n hu =>
    have hlt : n < s.cfg.nTx := hv.1 n (by simp [hu, Upc.txOffsets])
    exact ⟨⟨hlt, ho.1.2⟩, ho.2⟩
  case t3 => exact ⟨ho.1, ho.2.1, hn _⟩
  case t3Last => exact ⟨ho.1, ho.2.1, hn _⟩
  all_goals simpa using ho

/-- A micro-step writes a slot that exists, at W5. -/
theorem microStep_slotsInRange {s t : State} (hs : SlotsInRange s) (h : (microStep s).state? = some t) :
    SlotsInRange t := by
  simp only [SlotsInRange, forall_side, fifo_tx, fifo_rx, cap_tx, cap_rx] at hs ⊢
  cases microStep_cases h
  case w5 hlt => exact ⟨slots_set hlt hs.1, hs.2⟩
  all_goals simpa using hs

/-- A micro-step latches an offset register, a `next` or a free space, or keeps what is latched. -/
theorem microStep_latchesInRange {s t : State} (hl : s.cfg.legal = true) (ho : OffsetsInRange s)
    (hv : LatchesInRange s) (h : (microStep s).state? = some t) : LatchesInRange t := by
  simp only [OffsetsInRange, forall_side, fifo_tx, fifo_rx, cap_tx, cap_rx] at ho
  obtain ⟨⟨hth, htt⟩, hrh, hrt⟩ := ho
  unfold LatchesInRange at hv ⊢
  cases microStep_cases h
  case w4Discard | w4Wait | w4Room =>
    have hn : ∀ o, nextOffset s.cfg.nTx o < s.cfg.nTx := next_lt_cap hl .tx
    simp_all [Upc.txOffsets, Upc.rxOffsets, Upc.rxCounts, seenOffsets]
  case t4 =>
    have hf : ∀ o h2, openingFree s o h2 ≤ s.cfg.nRx := fun o h2 => (free_range h2 _ (cap_pos hl .rx)).2
    simp_all [Upc.txOffsets, Upc.rxOffsets, Upc.rxCounts]
  all_goals simp_all [Upc.txOffsets, Upc.rxOffsets, Upc.rxCounts, seenOffsets]

/-- A micro-step of a WRITE keeps what the writer knows: only mainline moves the head (R43, R71). -/
theorem microStep_writerCoherent {s t : State} (hw : WriterCoherent s) (h : (microStep s).state? = some t) :
    WriterCoherent t := by
  unfold WriterCoherent at hw
  cases microStep_cases h
  case w5 hu _ =>
    simp only [hu] at hw
    obtain ⟨rfl, rfl, hne⟩ := hw
    exact ⟨rfl, rfl, hne, by simp⟩
  all_goals simp_all [WriterCoherent]

/-- Only where there is a gate does a micro-step come to T4 (R96). -/
theorem microStep_gatedCoherent {s t : State} (hg : GatedCoherent s) (h : (microStep s).state? = some t) :
    GatedCoherent t := by
  cases microStep_cases h
  case idle => exact hg
  case t3 hc => exact fun _ => hc
  case t4 hu => exact fun _ => hg (.inl (by rw [hu]; rfl))
  case t5 hu _ => exact fun _ => hg (.inr (.inl (by rw [hu]; rfl)))
  all_goals simp [GatedCoherent, Upc.label]

theorem microStep_coherent {s t : State} (ha : Armed s) (hs : Coherent s) (h : (microStep s).state? = some t) :
    Coherent t :=
  have ho := hs.offsets ha.2
  have hv := hs.latches ha.2
  coherent_of_armed (microStep_armed h ha) (microStep_offsetsInRange ha.1 ho hv h)
    (microStep_slotsInRange (hs.slots ha.2) h) (microStep_latchesInRange ha.1 ho hv h)
    (microStep_writerCoherent (hs.writer ha.2) h) (microStep_gatedCoherent (hs.gated ha.2) h)

/-! ### What the handlers leave alone -/

/-- The transmit handler leaves the receive FIFO, the gate, RXIE and mainline (R94). -/
theorem transmitHandler_frame {f : Bool} {s t : State} (h : transmitHandler f s = .next t) :
    t.cfg = s.cfg ∧ t.rx = s.rx ∧ t.gate = s.gate ∧ t.ctsPin = s.ctsPin ∧ t.rxie = s.rxie ∧ t.upc = s.upc ∧
      t.inited = s.inited := by
  obtain ⟨-, rfl⟩ | ⟨-, -, -, rfl⟩ | ⟨-, -, -, -, rfl⟩ := transmitHandler_next h <;> simp

/-- The receive handler leaves the transmit FIFO, both interrupt enables and mainline (R101). -/
theorem receiveHandler_frame {e f : Bool} {d : Byte} {s t : State} (h : receiveHandler e f d s = .next t) :
    t.cfg = s.cfg ∧ t.tx = s.tx ∧ t.txie = s.txie ∧ t.rxie = s.rxie ∧ t.upc = s.upc ∧ t.inited = s.inited := by
  obtain ⟨-, rfl⟩ | ⟨-, -, rfl⟩ | ⟨-, -, -, rfl⟩ := receiveHandler_next h <;> simp [receivedAtHead]

/-- The receive handler stores in the one slot at the head, which exists, or nowhere (R104). -/
theorem receiveHandler_buf {e f : Bool} {d : Byte} {s t : State} (h : receiveHandler e f d s = .next t) :
    t.rx.buf = s.rx.buf ∨ s.rx.head < s.cfg.nRx ∧ t.rx.buf = Memory.set s.rx.buf s.rx.head d := by
  obtain ⟨-, rfl⟩ | ⟨-, -, rfl⟩ | ⟨-, -, hlt, rfl⟩ := receiveHandler_next h
  · exact .inl rfl
  · exact .inl (by simp)
  · refine .inr ⟨hlt, ?_⟩
    simp only [closeGate_rx, commitOrDrop_rx]
    split <;> simp [receivedAtHead]

/-- The receive handler opens the gate on an error and closes it on data, where there is one (R80, R84). -/
theorem receiveHandler_gate {e f : Bool} {d : Byte} {s t : State} (h : receiveHandler e f d s = .next t) :
    t.gate = s.gate ∨ s.cfg.ctsPresent = true ∧ f = true ∧ t.gate = if e then .go else .stop := by
  obtain ⟨-, rfl⟩ | ⟨rfl, rfl, rfl⟩ | ⟨rfl, rfl, -, rfl⟩ := receiveHandler_next h
  · exact .inl rfl
  · cases hp : s.cfg.ctsPresent
    · exact .inl (by simp [hp])
    · exact .inr ⟨rfl, rfl, by simp [hp]⟩
  · rw [closeGate_gate]
    split
    · next hcl =>
      have hp : s.cfg.ctsPresent = true := by
        simp only [closes, Bool.and_eq_true] at hcl
        simpa [receivedAtHead] using hcl.1
      exact .inr ⟨hp, rfl, rfl⟩
    · exact .inl (by simp [receivedAtHead])

/-! ### The handlers on a coherent Port -/

/-- A pop keeps what the writer knows: on the way to the fast path there is nothing to pop (R87), and the tail comes to
the candidate only from the head (R71). -/
theorem writerCoherent_pop {s : State} (ho : OffsetsInRange s) (hw : WriterCoherent s) (hne : s.tx.head ≠ s.tx.tail) :
    WriterCoherent (writeTail .tx (s.next .tx s.tx.tail) s) := by
  obtain ⟨hh, ht⟩ := ho .tx
  have hn : nextOffset s.cfg.nTx s.tx.head ≠ nextOffset s.cfg.nTx s.tx.tail := fun h => hne (nextOffset_inj hh ht h)
  unfold WriterCoherent at hw ⊢
  rw [writeTail_tx_upc]
  cases hu : s.upc
  case w6 =>
    simp only [hu] at hw
    obtain ⟨rfl, rfl, -, hb⟩ := hw
    exact ⟨rfl, rfl, hn, by simpa using hb⟩
  all_goals simp_all

theorem transmitHandler_coherent {s t : State} {f : Bool} (ha : Armed s) (hs : Coherent s)
    (h : transmitHandler f s = .next t) : Coherent t := by
  obtain ⟨-, rfl⟩ | ⟨-, -, -, rfl⟩ | ⟨-, -, hne, -, rfl⟩ := transmitHandler_next h
  · exact hs
  · exact ⟨hs.widths, hs.untouched, hs.legal, hs.offsets, hs.slots, hs.latches, hs.writer, hs.gated⟩
  · have ho := hs.offsets ha.2
    have hb := hs.slots ha.2
    exact coherent_of_armed ha (forall_side.mpr ⟨⟨(ho .tx).1, next_lt_cap ha.1 .tx _⟩, ho .rx⟩)
      (forall_side.mpr ⟨hb .tx, hb .rx⟩) (hs.latches ha.2) (writerCoherent_pop ho (hs.writer ha.2) hne) (hs.gated ha.2)

/-- The receive handler resets the offsets of its FIFO, advances the head, or leaves both (R101). -/
theorem receiveHandler_rx_inRange {e f : Bool} {d : Byte} {s t : State} (hl : s.cfg.legal = true)
    (ho : s.rx.head < s.cfg.nRx ∧ s.rx.tail < s.cfg.nRx) (h : receiveHandler e f d s = .next t) :
    t.rx.head < s.cfg.nRx ∧ t.rx.tail < s.cfg.nRx := by
  obtain ⟨-, rfl⟩ | ⟨-, -, rfl⟩ | ⟨-, -, -, rfl⟩ := receiveHandler_next h
  · exact ho
  · simpa using cap_pos hl .rx
  · have hn : nextOffset s.cfg.nRx s.rx.head < s.cfg.nRx := next_lt_cap hl .rx _
    simp only [closeGate_rx, commitOrDrop_rx]
    split
    · simpa [receivedAtHead] using ho
    · simpa [receivedAtHead] using ⟨hn, ho.2⟩

theorem receiveHandler_coherent {e f : Bool} {d : Byte} {s t : State} (ha : Armed s) (hs : Coherent s)
    (h : receiveHandler e f d s = .next t) : Coherent t := by
  obtain ⟨hc, htx, -, -, hu, hi⟩ := receiveHandler_frame h
  have ho := hs.offsets ha.2
  have hb := hs.slots ha.2
  refine coherent_of_armed (by rwa [Armed, hc, hi]) (forall_side.mpr ⟨?_, ?_⟩) (forall_side.mpr ⟨?_, ?_⟩)
    (latchesInRange_congr hu hc (hs.latches ha.2)) (writerCoherent_congr hu hc htx (hs.writer ha.2))
    (gatedCoherent_congr hu hc (hs.gated ha.2))
  · simpa [htx, hc] using ho .tx
  · simpa [hc] using receiveHandler_rx_inRange ha.1 (ho .rx) h
  · simpa [htx, hc] using hb .tx
  · obtain hbuf | ⟨hlt, hbuf⟩ := receiveHandler_buf h
    · simpa [hbuf, hc] using hb .rx
    · simpa [hbuf, hc] using slots_set hlt (hb .rx)

/-! ### The other transitions -/

theorem initialise_coherent {s : State} (hl : s.cfg.legal = true) (hs : Coherent s) : Coherent (initialise s) := by
  have hslots : SlotsInRange s := by
    cases hi : s.inited with
    | true => exact hs.slots hi
    | false =>
      obtain ⟨-, htx, hrx⟩ := hs.untouched hi
      exact forall_side.mpr ⟨by simp [htx], by simp [hrx]⟩
  have htx := cap_pos hl .tx
  have hrx := cap_pos hl .rx
  refine coherent_of_armed (by simpa [Armed] using hl) (forall_side.mpr ?_) (forall_side.mpr ⟨?_, ?_⟩) ?_ ?_ ?_
  · simp_all
  · simpa using hslots .tx
  · simpa using hslots .rx
  · exact latchesInRange_of_idle (by simp)
  · simp [WriterCoherent]
  · exact gatedCoherent_of_idle (by simp)

theorem start_coherent {s : State} {u : Upc} (hr : Ready s) (hu : IsStart u) (hs : Coherent s) :
    Coherent (goTo u s) := by
  refine coherent_of_armed hr.1 (hs.offsets hr.1.2) (hs.slots hr.1.2) ?_ ?_ ?_
  · cases hu <;> simp [LatchesInRange, Upc.txOffsets, Upc.rxOffsets, Upc.rxCounts]
  · cases hu <;> simp [WriterCoherent]
  · cases hu <;> simp [GatedCoherent, Upc.label]

theorem configured_coherent {s : State} (c : Cfg) (hi : s.inited = false) (hs : Coherent s) :
    Coherent (configured c s) := by
  have hi' : (configured c s).inited ≠ true := by simp [hi]
  exact ⟨offsetsFitWidth_configured c s, hs.untouched, fun h => absurd h hi', fun h => absurd h hi',
    fun h => absurd h hi', fun h => absurd h hi', fun h => absurd h hi', fun h => absurd h hi'⟩

/-- Every transition of the Port keeps it coherent. -/
theorem kept_coherent : Kept Coherent where
  input _ _ hs := ⟨hs.widths, hs.untouched, hs.legal, hs.offsets, hs.slots, hs.latches, hs.writer, hs.gated⟩
  configure _ c hi hs := configured_coherent c hi hs
  init _ hl _ hs := initialise_coherent hl hs
  start _ _ hr hu hs := start_coherent hr hu hs
  micro _ _ ha hs h := microStep_coherent ha hs h
  transmit _ _ _ ha hs h := transmitHandler_coherent ha hs h
  receive _ _ _ _ _ ha hs h := receiveHandler_coherent ha hs h

/-- Settles O54: coherence is a kept property. -/
theorem stepKeepsCoherent : Obligations.StepKeepsCoherent := fun _ _ => kept_coherent.step

/-! ### A run of micro-steps within its rule -/

/-- A micro-step comes to no label outside the rule of the operation in progress (R27). -/
theorem microStep_labels_subset {s t : State} (h : (microStep s).state? = some t) : t.upc.labels ⊆ s.upc.labels := by
  obtain hi | hl := microStep_labels h
  · simp [hi, Upc.labels]
  · simp [hl]

/-- What holds at the start of a run and is kept by every micro-step within the rule of its operation holds where the run
stops. -/
theorem runMicro_keeps_within {P : State → Prop} {upto : Option Label} {k : Nat} {s t : State}
    (hstep : ∀ x y, Armed x → x.upc.labels ⊆ s.upc.labels → P x → (microStep x).state? = some y → P y)
    (h : runMicro upto k s = .next t) (ha : Armed s) (hp : P s) : P t :=
  (runMicro_keeps (P := fun x => x.upc.labels ⊆ s.upc.labels ∧ P x)
    (fun _ _ hx hp hm => ⟨fun _ hl => hp.1 (microStep_labels_subset hm hl), hstep _ _ hx hp.1 hp.2 hm⟩)
    ha ⟨fun _ hl => hl, hp⟩ h).1.2

/-- An operation is issued within its own rule (R27). -/
theorem labels_of_startOf {i : Instr} {u : Upc} (h : startOf i = some u) : u.labels = i.labels := by
  cases i <;> simp only [startOf, Option.some.injEq, reduceCtorEq] at h <;> subst h <;> rfl

/-- The operations whose rule has the label T0 are the reads. -/
theorem read_of_startOf {i : Instr} {u : Upc} (h : startOf i = some u) (hl : Label.t0 ∈ u.labels) :
    i = .tryread ∨ i = .readb := by
  rw [labels_of_startOf h] at hl
  cases i <;> simp [Instr.labels] at hl ⊢

/-- The operation whose rule has the label W0 is WRITE. -/
theorem write_of_startOf {i : Instr} {u : Upc} (h : startOf i = some u) (hw : u.inWrite = true) :
    ∃ f d, i = .write f d := by
  rw [Upc.inWrite, labels_of_startOf h] at hw
  cases i <;> simp [Instr.labels] at hw ⊢

/-! ### The gate -/

/-- In `t` the gate stands as in `s`, or the read in progress in `s` has opened it (R85). -/
def GateKeptOrOpened (s t : State) : Prop :=
  t.gate = s.gate ∨ s.cfg.ctsPresent = true ∧ t.gate = .go ∧ Label.t0 ∈ s.upc.labels

/-- The one micro-step that writes the gate is T6, which opens it (R85). -/
theorem microStep_gate {s t : State} (hg : GatedCoherent s) (h : (microStep s).state? = some t) :
    GateKeptOrOpened s t := by
  cases microStep_cases h
  case t6 hu => exact .inr ⟨hg (.inr (.inr (by rw [hu]; rfl))), rfl, by simp [hu, Upc.labels]⟩
  all_goals exact .inl (by simp)

theorem runMicro_gate {upto : Option Label} {k : Nat} {s t : State} (h : runMicro upto k s = .next t) (ha : Armed s)
    (hs : Coherent s) : GateKeptOrOpened s t := by
  refine (runMicro_keeps_within (P := fun x => Coherent x ∧ x.cfg = s.cfg ∧ GateKeptOrOpened s x)
    (fun x y hax hl ⟨hx, hc, hg⟩ hm => ?_) h ha ⟨hs, rfl, .inl rfl⟩).2.2
  refine ⟨microStep_coherent hax hx hm, (microStep_frame hm).1.trans hc, ?_⟩
  obtain hk | ⟨hp, hgo, ht⟩ := microStep_gate (hx.gated hax.2) hm
  · rwa [GateKeptOrOpened, hk]
  · exact .inr ⟨hc ▸ hp, hgo, hl ht⟩

/-- Settles O38: of each kind of transition, how it can write the gate. -/
theorem gateIsWrittenByItsOwnersOnly : Obligations.GateIsWrittenByItsOwnersOnly := by
  intro s t hs h hne
  cases step_transition h
  case init agent w upto rest hin hd ht =>
    cases hp : s.cfg.ctsPresent
    · exact absurd (by simp [ht, hp]) hne
    · exact ⟨rfl, by simp [ht, hp], fun _ => .inl ⟨agent, w, upto, rest, _, hin, hd, .inl rfl⟩⟩
  case issued agent w upto rest i u hin hd hu hr ht =>
    obtain hk | ⟨hp, hgo, hl⟩ :=
      runMicro_gate ht hr.1 (start_coherent hr (isStart_of_startOf hu) (kept_coherent.input s rest hs))
    · exact absurd hk hne
    · refine ⟨hp, by simp [hgo], fun _ => .inl ⟨agent, w, upto, rest, i, hin, hd, ?_⟩⟩
      obtain rfl | rfl := read_of_startOf hu hl <;> simp
  case transmit ha ht =>
    obtain ⟨-, -, hg, -⟩ := transmitHandler_frame ht
    exact absurd hg hne
  case receive agent w upto rest e f d hin hd ha ht =>
    obtain hk | ⟨hp, rfl, hg⟩ := receiveHandler_gate ht
    · exact absurd hk hne
    · cases e
      · exact ⟨hp, fun _ => ⟨agent, w, upto, rest, d, hin, hd⟩, by simp [hg]⟩
      · exact ⟨hp, by simp [hg], fun _ => .inl ⟨agent, w, upto, rest, _, hin, hd, by simp⟩⟩
  case onward x upto hu ha ht =>
    obtain hk | ⟨hp, hgo, hl⟩ := runMicro_gate ht ha (kept_coherent.input s x hs)
    · exact absurd hk hne
    · exact ⟨hp, by simp [hgo], fun _ => .inr hl⟩
  case configured ht => exact absurd (by simp [ht]) hne
  case idle ht => exact absurd (by rw [ht]) hne

/-! ### The transmit interrupt enable -/

/-- In `t` TXIE stands as in `s`, or the WRITE in progress in `s` has completed and set it (R90). -/
def TxieKeptOrSet (s t : State) : Prop :=
  t.txie = s.txie ∨ t.txie = true ∧ t.upc = .idle ∧ s.upc.inWrite = true

/-- The one micro-step that writes TXIE is W7, which completes its WRITE (R90). -/
theorem microStep_txie {s t : State} (h : (microStep s).state? = some t) : TxieKeptOrSet s t := by
  cases microStep_cases h
  case w7 hu => exact .inr ⟨rfl, rfl, by rw [hu]; rfl⟩
  all_goals exact .inl (by simp)

/-- Where nothing is in progress there is no micro-step. -/
theorem microStep_of_idle {s t : State} (hu : s.upc = .idle) (h : (microStep s).state? = some t) : t = s := by
  simpa [microStep, hu, eq_comm] using h

theorem runMicro_txie {upto : Option Label} {k : Nat} {s t : State} (h : runMicro upto k s = .next t) (ha : Armed s) :
    TxieKeptOrSet s t := by
  refine runMicro_keeps_within (fun x y _ hl hx hm => ?_) h ha (.inl rfl)
  obtain hk | ⟨htx, hi, hw⟩ := hx
  · obtain hk' | ⟨htx, hi, hw⟩ := microStep_txie hm
    · exact .inl (hk'.trans hk)
    · exact .inr ⟨htx, hi, decide_eq_true (hl (of_decide_eq_true hw))⟩
  · rw [microStep_of_idle hi hm]
    exact .inr ⟨htx, hi, hw⟩

/-- Settles O40: of each kind of transition, how it can write TXIE. -/
theorem txieIsWrittenByItsOwnersOnly : Obligations.TxieIsWrittenByItsOwnersOnly := by
  intro s t h
  by_cases hne : t.txie = s.txie
  · simp_all
  cases step_transition h
  case init agent w upto rest hin hd ht =>
    exact ⟨by simp [ht], fun _ _ => ⟨agent, w, upto, rest, _, hin, hd, .inl rfl⟩⟩
  case issued agent w upto rest i u hin hd hu hr ht =>
    obtain hk | ⟨htx, hi, hw⟩ := runMicro_txie ht hr.1
    · exact absurd hk hne
    · obtain ⟨f, d, rfl⟩ := write_of_startOf hu hw
      exact ⟨fun _ _ => ⟨hi, .inr ⟨agent, w, upto, rest, f, d, hin, hd⟩⟩, by simp [htx]⟩
  case transmit agent w upto rest f hin hd ha ht =>
    obtain ⟨-, rfl⟩ | ⟨rfl, -, he, rfl⟩ | ⟨-, -, -, -, rfl⟩ := transmitHandler_next ht
    · exact absurd rfl hne
    · exact ⟨by simp, fun _ _ => ⟨agent, w, upto, rest, _, hin, hd, .inr ⟨rfl, he⟩⟩⟩
    · exact absurd rfl hne
  case receive ht =>
    obtain ⟨-, -, htx, -⟩ := receiveHandler_frame ht
    exact absurd htx hne
  case onward x upto hu ha ht =>
    obtain hk | ⟨htx, hi, hw⟩ := runMicro_txie ht ha
    · exact absurd hk hne
    · exact ⟨fun _ _ => ⟨hi, .inl hw⟩, by simp [htx]⟩
  case configured ht => exact absurd (by simp [ht]) hne
  case idle ht => exact absurd (by rw [ht]) hne

/-! ### The receive interrupt enable -/

theorem runMicro_rxie {upto : Option Label} {k : Nat} {s t : State} (h : runMicro upto k s = .next t) (ha : Armed s) :
    t.rxie = s.rxie :=
  runMicro_keeps_within (P := fun x => x.rxie = s.rxie)
    (fun _ _ _ _ hx hm => (microStep_frame hm).2.1.trans hx) h ha rfl

/-- A step leaves RXIE, or was asked for INIT and sets it (R26). -/
theorem step_rxie {s t : State} (h : step s = .next t) :
    t.rxie = s.rxie ∨ t.rxie = true ∧
      ∃ agent w upto rest, s.input = .request agent w upto :: rest ∧ decode w = .ok .init := by
  cases step_transition h
  case init agent w upto rest hin hd ht => exact .inr ⟨by simp [ht], agent, w, upto, rest, hin, hd⟩
  case issued hr ht =>
    have hrx := runMicro_rxie ht hr.1
    exact .inl hrx
  case transmit ht =>
    obtain ⟨-, -, -, -, hrx, -⟩ := transmitHandler_frame ht
    exact .inl hrx
  case receive ht =>
    obtain ⟨-, -, -, hrx, -⟩ := receiveHandler_frame ht
    exact .inl hrx
  case onward ha ht =>
    have hrx := runMicro_rxie ht ha
    exact .inl hrx
  case configured ht => exact .inl (by simp [ht])
  case idle ht => exact .inl (by rw [ht])

theorem kept_receiveInterruptEnabled : Kept ReceiveInterruptEnabled where
  input _ _ hs := hs
  configure _ _ _ hs := hs
  init _ _ _ _ _ := initialise_rxie _
  start _ _ _ _ hs := hs
  micro _ _ _ hs hm := by
    obtain ⟨-, hrx, hi, -⟩ := microStep_frame hm
    rwa [ReceiveInterruptEnabled, hrx, hi]
  transmit _ _ _ _ hs ht := by
    obtain ⟨-, -, -, -, hrx, -, hi⟩ := transmitHandler_frame ht
    rwa [ReceiveInterruptEnabled, hrx, hi]
  receive _ _ _ _ _ _ hs ht := by
    obtain ⟨-, -, -, hrx, -, hi⟩ := receiveHandler_frame ht
    rwa [ReceiveInterruptEnabled, hrx, hi]

/-- Settles O41: INIT alone writes RXIE, and that it is set is a kept property. -/
theorem rxieIsSetByInitAndNeverCleared : Obligations.RxieIsSetByInitAndNeverCleared := by
  refine ⟨fun s t h => ?_, fun s t h hne => (step_rxie h).resolve_left hne,
    fun s t h hs => kept_receiveInterruptEnabled.step hs h⟩
  obtain ⟨-, -, -, rfl⟩ | ⟨u, hu, -⟩ | ⟨f, hf, -⟩ | ⟨e, f, d, hf, -⟩ := exec_next h
  · exact initialise_rxie s
  · cases hu
  · cases hf
  · cases hf

/-! ### The pin -/

/-- Gate and pin are written together or not at all (R24). -/
theorem kept_pinFollowsGate : Kept PinFollowsGate where
  input _ _ hs := hs
  configure _ _ hi _ := by simp [PinFollowsGate, hi]
  init _ _ _ _ := by simp +contextual [PinFollowsGate]
  start _ _ _ _ hs := hs
  micro s t _ hs hm := by
    cases microStep_cases hm
    case t6 => exact fun _ _ => rfl
    all_goals simpa [PinFollowsGate] using hs
  transmit _ _ _ _ hs ht := by
    obtain ⟨hc, -, hg, hp, -, -, hi⟩ := transmitHandler_frame ht
    rwa [PinFollowsGate, hc, hg, hp, hi]
  receive s _ _ d _ _ hs ht := by
    obtain ⟨-, rfl⟩ | ⟨-, -, rfl⟩ | ⟨-, -, -, rfl⟩ := receiveHandler_next ht
    · exact hs
    · simp +contextual [PinFollowsGate]
    · have hstored : PinFollowsGate (commitOrDrop d (invokeCallback d (receivedAtHead d s))) := by
        simpa [PinFollowsGate, receivedAtHead] using hs
      unfold closeGate
      split
      · exact fun _ _ => rfl
      · exact hstored

/-- Settles O57: that the pin follows the gate is a kept property. -/
theorem stepKeepsPinFollowingGate : Obligations.StepKeepsPinFollowingGate := fun _ _ => kept_pinFollowsGate.step

/-! ### Power-on and reset -/

theorem pinLevel_go (c : Cfg) : pinLevel c .go = !c.ctsInvert := by simp [pinLevel, gateBit]

/-- Where nothing blocks it, INIT performs its transition (R111). -/
theorem exec_init_of_idle {s : State} (hl : s.cfg.legal = true) (hu : s.upc = .idle) :
    exec .init s = .next (initialise s) := by
  rw [exec, execInit, (blockedInit_eq_none s).mpr ⟨hl, hu⟩]

/-- Settles O12: nothing blocks INIT at power-on, and its transition leaves every field as R31 says. -/
theorem resetIsInitFromPowerOn : Obligations.ResetIsInitFromPowerOn := by
  intro c p hl
  have hinit := exec_init_of_idle (s := State.powerOn c p) hl rfl
  constructor <;> intro hc
  · rw [hinit, initialise, openGate, if_pos (by exact hc), State.resetWith, if_pos hc, ← pinLevel_go]
    rfl
  · rw [hinit, initialise, openGate_of_absent (by exact hc), State.resetWith, if_neg (by simp [hc])]
    rfl

theorem powerOn_coherent (c : Cfg) (p : PowerOn) : Coherent (State.powerOn c p) where
  widths := forall_side.mpr ⟨⟨fit_head_lt _ _, fit_tail_lt _ _⟩, fit_head_lt _ _, fit_tail_lt _ _⟩
  untouched _ := ⟨rfl, rfl, rfl⟩
  legal h := by cases h
  offsets h := by cases h
  slots h := by cases h
  latches h := by cases h
  writer h := by cases h
  gated h := by cases h

theorem resetWith_coherent {c : Cfg} (hl : c.legal = true) : Coherent (State.resetWith c) := by
  have htx := cap_pos (s := State.resetWith c) hl .tx
  have hrx := cap_pos (s := State.resetWith c) hl .rx
  exact coherent_of_armed ⟨hl, rfl⟩ (forall_side.mpr ⟨⟨htx, htx⟩, hrx, hrx⟩)
    (forall_side.mpr ⟨by simp [State.resetWith], by simp [State.resetWith]⟩)
    (latchesInRange_of_idle rfl) trivial (gatedCoherent_of_idle rfl)

/-- Settles O55: at power-on the registers fit their width, and at reset the offsets are 0 and nothing is in progress. -/
theorem resetIsCoherent : Obligations.ResetIsCoherent := by
  refine ⟨powerOn_coherent, fun c hl => ⟨resetWith_coherent hl, ?pin, ?rxie, ?txie, ?stores, ?result⟩, by decide⟩
  case pin => exact fun _ _ => (pinLevel_go c).symm
  case rxie => exact fun _ => rfl
  case txie => simp [TransmitInterruptEnabled, State.resetWith]
  case stores => exact forall_side.mpr ⟨rfl, rfl⟩
  case result => simp [ResultFits, State.resetWith]

end Sys2Proof.Machine
end

section
/-! PROOF. The statements of 20_memory.md: no access to a slot that does not exist (R34), stores in canonical form (R32,
R37), mainline operations that do not overlap (R40), what mainline never writes (R43, R45), and what a step performs (R49). -/

namespace Sys2Proof.Machine

/-! ### No access to a slot that does not exist -/

/-- The two accesses to a store, at W5 and T2, are at latched offsets (R33, R34). -/
theorem microStep_ne_fault {s : State} (hv : LatchesInRange s) (r : Fault) : microStep s ≠ .fault r := by
  intro h
  obtain ⟨htx, hrx, -⟩ := hv
  unfold microStep at h
  split at h
  case h_7 hd _ _ _ _ hu =>
    have hlt : hd < s.cap .tx := htx hd (by simp [hu, Upc.txOffsets])
    simp [microW5, memWrite_of_lt _ hlt] at h
  case h_16 t hu =>
    have hlt : t < s.cap .rx := hrx t (by simp [hu, Upc.rxOffsets])
    simp [microT2, memRead_of_lt hlt] at h
  all_goals
    simp only [microW0, microW1, microW2, microW3, microW4, microW6, microW7, microF0, microF1, microI0, microI1,
      microT0, microT1, notFound, startOver, microT3, microT4, microT5, microT6, found, microA0, microA1,
      reduceCtorEq] at h
  all_goals repeat' split at h
  all_goals cases h

theorem runMicro_ne_fault {upto : Option Label} {k : Nat} {s : State} (ha : Armed s) (hs : Coherent s) (r : Fault) :
    runMicro upto k s ≠ .fault r :=
  runMicro_noFault (fun _ _ => microStep_coherent) (fun _ ha hs => microStep_ne_fault (hs.latches ha.2)) ha hs r

/-- A mainline operation, whole or split, runs from a coherent state. -/
theorem issueUpto_ne_fault {upto : Option Label} {u : Upc} {s : State} (hu : IsStart u) (hs : Coherent s) (r : Fault) :
    issueUpto upto u s ≠ .fault r := by
  unfold issueUpto
  split
  · simp
  · next hb =>
    have hr := (blockedMainline_eq_none s).mp hb
    exact runMicro_ne_fault (s := goTo u s) hr.1 (start_coherent hr hu hs) r

theorem resumeUpto_ne_fault {upto : Option Label} {s : State} (hs : Coherent s) (r : Fault) :
    resumeUpto upto s ≠ .fault r := by
  unfold resumeUpto
  split
  · simp
  · next hb => exact runMicro_ne_fault ((blocked_eq_none s).mp hb) hs r

theorem advance_ne_fault {s : State} (hs : Coherent s) (r : Fault) : advance s ≠ .fault r := by
  unfold advance
  split
  · simp
  · next hb =>
    have ha := (blocked_eq_none s).mp hb
    split
    case h_4 hm => exact absurd hm (microStep_ne_fault (hs.latches ha.2) _)
    all_goals simp

/-- The transmit handler reads the slot at the tail (R94). -/
theorem transmitHandler_ne_fault {s : State} (ht : s.tx.tail < s.cfg.nTx) (f : Bool) (r : Fault) :
    transmitHandler f s ≠ .fault r := by
  unfold transmitHandler
  rw [popStep_of_lt (x := .tx) ht]
  split_ifs <;> simp

/-- The receive handler writes the slot at the head (R104). -/
theorem receiveHandler_ne_fault {s : State} (hh : s.rx.head < s.cfg.nRx) (e f : Bool) (d : Byte) (r : Fault) :
    receiveHandler e f d s ≠ .fault r := by
  have hlt : s.rx.head < (emit .rxregRead s).cap .rx := hh
  unfold receiveHandler
  split
  · simp
  · simp
  · simp [receiveData, memWrite_of_lt d hlt]

theorem exec_ne_fault {i : Instr} {s : State} (hs : Coherent s) (r : Fault) : exec i s ≠ .fault r := by
  obtain ⟨u, hu⟩ | rfl | ⟨f, rfl⟩ | ⟨e, f, d, rfl⟩ := startOf_cases i
  · rw [exec_of_startOf hu]
    exact issueUpto_ne_fault (isStart_of_startOf hu) hs r
  · rw [exec, execInit]
    split <;> simp
  · rw [exec, execTxisr]
    split
    · simp
    · next hb =>
      have ha := (blocked_eq_none s).mp hb
      exact transmitHandler_ne_fault (hs.offsets ha.2 .tx).2 f r
  · rw [exec, execRxisr]
    split
    · simp
    · next hb =>
      have ha := (blocked_eq_none s).mp hb
      exact receiveHandler_ne_fault (hs.offsets ha.2 .rx).1 e f d r

theorem execUpto_ne_fault {i : Instr} {l : Label} {s : State} (hs : Coherent s) (r : Fault) :
    execUpto i l s ≠ .fault r := by
  unfold execUpto
  split
  · simp
  · next hu =>
    split
    · exact issueUpto_ne_fault (isStart_of_startOf hu) hs r
    · simp

theorem performRequest_ne_fault {agent : Agent} {w : OpWord} {upto : Option Label} {s : State} (hs : Coherent s)
    (r : Fault) : performRequest agent w upto s ≠ .fault r := by
  unfold performRequest
  split
  · simp
  · split
    · cases upto
      · exact exec_ne_fault hs r
      · exact execUpto_ne_fault hs r
    · simp

theorem performResume_ne_fault {upto : Option Label} {s : State} (hs : Coherent s) (r : Fault) :
    performResume upto s ≠ .fault r := by
  unfold performResume
  split
  · simp
  · split
    · exact resumeUpto_ne_fault hs r
    · split
      · exact resumeUpto_ne_fault hs r
      · simp

theorem performConfigure_ne_fault (c : Cfg) (s : State) (r : Fault) : performConfigure c s ≠ .fault r := by
  unfold performConfigure
  split_ifs <;> simp

/-- Settles O56: every micro-step of a run starts from a coherent state, whose latches are offsets that exist. -/
theorem coherentStepNeverFaults : Obligations.CoherentStepNeverFaults := by
  intro s hs r
  unfold step
  split
  · unfold unattended
    split
    · simp
    · exact advance_ne_fault hs r
  · next x rest _ =>
    have hs' := kept_coherent.input s rest hs
    cases x with
    | request agent w upto => exact performRequest_ne_fault hs' r
    | resume upto => exact performResume_ne_fault hs' r
    | configure c => exact performConfigure_ne_fault c _ r

/-! ### The canonical form -/

/-- W5 stores a byte in the transmit instance; no other micro-step writes a store (R43). -/
theorem microStep_memoryCanonical {s t : State} (hs : MemoryCanonical s) (h : (microStep s).state? = some t) :
    MemoryCanonical t := by
  obtain ⟨htx, hrx⟩ := forall_side.mp hs
  refine forall_side.mpr ⟨?_, ?_⟩
  · cases microStep_cases h
    case w5 => exact Memory.wf_set _ _ _ htx
    all_goals simpa using htx
  · obtain ⟨-, -, -, -, -, -, hb⟩ := microStep_frame h
    rwa [fifo_rx, hb]

/-- The transmit handler writes no slot (R94). -/
theorem transmitHandler_buf {f : Bool} {s t : State} (h : transmitHandler f s = .next t) : t.tx.buf = s.tx.buf := by
  obtain ⟨-, rfl⟩ | ⟨-, -, -, rfl⟩ | ⟨-, -, -, -, rfl⟩ := transmitHandler_next h <;> rfl

theorem transmitHandler_memoryCanonical {f : Bool} {s t : State} (hs : MemoryCanonical s)
    (h : transmitHandler f s = .next t) : MemoryCanonical t := by
  obtain ⟨-, hrx, -⟩ := transmitHandler_frame h
  exact forall_side.mpr ⟨by simpa [transmitHandler_buf h] using hs .tx, by simpa [hrx] using hs .rx⟩

theorem receiveHandler_memoryCanonical {e f : Bool} {d : Byte} {s t : State} (hs : MemoryCanonical s)
    (h : receiveHandler e f d s = .next t) : MemoryCanonical t := by
  obtain ⟨-, htx, -⟩ := receiveHandler_frame h
  refine forall_side.mpr ⟨by simpa [htx] using hs .tx, ?_⟩
  obtain hb | ⟨-, hb⟩ := receiveHandler_buf h
  · simpa [hb] using hs .rx
  · simpa [hb] using Memory.wf_set _ _ _ (hs .rx)

/-- Every transition leaves a store, or stores one byte in it. -/
theorem kept_memoryCanonical : Kept MemoryCanonical where
  input _ _ hs := forall_side.mpr (forall_side.mp hs)
  configure _ _ _ hs := forall_side.mpr (forall_side.mp hs)
  init _ _ _ hs := forall_side.mpr ⟨by simpa using hs .tx, by simpa using hs .rx⟩
  start _ _ _ _ hs := forall_side.mpr (forall_side.mp hs)
  micro _ _ _ hs h := microStep_memoryCanonical hs h
  transmit _ _ _ _ hs h := transmitHandler_memoryCanonical hs h
  receive _ _ _ _ _ _ hs h := receiveHandler_memoryCanonical hs h

/-- Settles O59: the canonical form is a kept property. -/
theorem stepKeepsMemoryCanonical : Obligations.StepKeepsMemoryCanonical := fun _ _ => kept_memoryCanonical.step

/-! ### Operations that do not overlap -/

theorem blockedMainline_of_busy {s : State} (ha : Armed s) (hb : s.upc.isIdle = false) :
    blockedMainline s = some .overlap := by
  rw [blockedMainline, blocked_of_armed ha, hb]
  rfl

theorem blockedInit_of_busy {s : State} (hl : s.cfg.legal = true) (hb : s.upc.isIdle = false) :
    blockedInit s = some .overlap := by
  rw [blockedInit, hl, hb]
  rfl

/-- Settles O9: what blocks a mainline operation, and what blocks INIT, while one is in progress. -/
theorem mainlineOperationsDoNotOverlap : Obligations.MainlineOperationsDoNotOverlap := by
  intro i s hl hi hag hb
  obtain ⟨u, hu⟩ | rfl | ⟨f, rfl⟩ | ⟨e, f, d, rfl⟩ := startOf_cases i
  · have hin : s.inited = true := hi.resolve_right (by rintro rfl; cases hu)
    rw [exec_of_startOf hu, issue, issueUpto, blockedMainline_of_busy ⟨hl, hin⟩ hb]
  · rw [exec, execInit, blockedInit_of_busy hl hb]
  · cases hag
  · cases hag

/-! ### What mainline never writes -/

/-- The micro-steps that write the transmit instance, W5 and W6, are of a WRITE (R43). -/
theorem microStep_tx {s t : State} (h : (microStep s).state? = some t) : t.tx = s.tx ∨ s.upc.inWrite = true := by
  cases microStep_cases h
  case w5 hu _ => exact .inr (by rw [hu]; rfl)
  case w6 hu => exact .inr (by rw [hu]; rfl)
  all_goals exact .inl (by simp)

/-- The micro-steps that write the receive instance, gate or pin, T3 and T6, are of a read (R45). -/
theorem microStep_rx {s t : State} (h : (microStep s).state? = some t) :
    (t.rx = s.rx ∧ t.gate = s.gate ∧ t.ctsPin = s.ctsPin) ∨ Label.t0 ∈ s.upc.labels := by
  cases microStep_cases h
  case t3 hu _ => exact .inr (by simp [hu, Upc.labels])
  case t3Last hu _ => exact .inr (by simp [hu, Upc.labels])
  case t6 hu => exact .inr (by simp [hu, Upc.labels])
  all_goals exact .inl (by simp)

/-- The one micro-step that writes the gate is T6 (R85, R96). -/
theorem microStep_gate_label {s t : State} (h : (microStep s).state? = some t) :
    t.gate = s.gate ∨ s.upc.label = some .t6 := by
  cases microStep_cases h
  case t6 hu => exact .inr (by rw [hu]; rfl)
  all_goals exact .inl (by simp)

/-- Settles O42: the frame of one micro-step, and which micro-steps write either instance and the gate. -/
theorem mainlineMicroStepFrame : Obligations.MainlineMicroStepFrame := by
  intro s t h
  obtain ⟨-, hm⟩ := advance_next h
  obtain ⟨hcfg, hrxie, hinited, hinput, htail, hhead, hbuf⟩ := microStep_frame hm
  refine ⟨htail, hhead, hbuf, hrxie, hcfg, hinited, hinput, fun hw => ⟨?tx, ?txie⟩, (microStep_rx hm).resolve_right,
    (microStep_gate_label hm).resolve_left⟩
  case tx => exact (microStep_tx hm).resolve_right (by simp [hw])
  case txie => exact (microStep_txie hm).resolve_right (by simp [hw])

/-! ### What a step performs -/

theorem step_of_item {s : State} {x : Input} {rest : List Input} (h : s.input = x :: rest) :
    step s = perform x { s with input := rest } := by
  rw [step, h]

theorem step_of_no_item {s : State} (h : s.input = []) : step s = unattended s := by
  rw [step, h]

/-- A request of an agent that may perform the operation of the word is performed (R50, R128). -/
theorem step_request {s : State} {agent : Agent} {w : OpWord} {upto : Option Label} {rest : List Input} {i : Instr}
    (hin : s.input = .request agent w upto :: rest) (hd : decode w = .ok i) (ha : i.allowedFrom agent = true) :
    step s = performInstr upto i { s with input := rest } := by
  rw [step_of_item hin, perform, performRequest, hd]
  exact if_pos ha

/-- The operations without labels are the atomic ones (R41, R111). -/
theorem startOf_eq_none_iff (i : Instr) : startOf i = none ↔ i.labels = [] := by
  cases i <;> simp [startOf, Instr.labels]

theorem execUpto_of_atomic {i : Instr} (h : i.labels = []) (l : Label) (s : State) :
    execUpto i l s = .refused .splitOfAtomic := by
  rw [execUpto, (startOf_eq_none_iff i).mpr h]

theorem execUpto_of_foreign {i : Instr} {l : Label} (hne : i.labels ≠ []) (hl : l ∉ i.labels) (s : State) :
    execUpto i l s = .refused .foreignLabel := by
  unfold execUpto
  split
  · next h => exact absurd ((startOf_eq_none_iff i).mp h) hne
  · simp [Instr.splitsAt, hl]

theorem performResume_of_idle {s : State} (h : s.upc = .idle) (upto : Option Label) :
    performResume upto s = .refused .nothingInProgress := by
  simp [performResume, h]

theorem performResume_of_label {s : State} {upto : Option Label} (hu : s.upc ≠ .idle)
    (hl : ∀ l ∈ upto, l ∈ s.upc.labels) : performResume upto s = resumeUpto upto s := by
  cases upto with
  | none => simp [performResume, hu]
  | some l => simp [performResume, hu, hl l rfl]

theorem performResume_of_foreign {s : State} {l : Label} (hu : s.upc ≠ .idle) (hl : l ∉ s.upc.labels) :
    performResume (some l) s = .refused .foreignLabel := by
  simp [performResume, hu, hl]

theorem performConfigure_of_not_inited {s : State} (h : s.inited = false) (c : Cfg) :
    performConfigure c s = .next (configured c s) := by
  simp [performConfigure, h]

theorem performConfigure_same {s : State} (h : s.inited = true) : performConfigure s.cfg s = .next s := by
  simp [performConfigure, h]

/-- Settles O5: the item is taken from the input, and each kind of item has its own equation. -/
theorem stepPerformsTheRequest : Obligations.StepPerformsTheRequest := by
  refine ⟨?whole, ?split, ?resume, ?configure, ?idle, ?busy⟩
  case whole => exact fun s agent w rest i hin hd ha => step_request hin hd ha
  case split =>
    intro s agent w l rest i hin hd ha
    have hstep : step s = execUpto i l { s with input := rest } := step_request hin hd ha
    rw [hstep]
    exact ⟨rfl, fun h => execUpto_of_atomic h l _, fun hne hl => execUpto_of_foreign hne hl _⟩
  case resume =>
    intro s upto rest hin
    have hstep : step s = performResume upto { s with input := rest } := step_of_item hin
    rw [hstep]
    refine ⟨fun hi => performResume_of_idle (by exact hi) upto, fun hu hl => performResume_of_label hu hl, ?_⟩
    rintro hu l rfl hl
    exact performResume_of_foreign hu hl
  case configure =>
    intro s c rest hin
    have hstep : step s = performConfigure c { s with input := rest } := step_of_item hin
    rw [hstep]
    refine ⟨fun hi => performConfigure_of_not_inited (by exact hi) c, ?_⟩
    rintro hi rfl
    exact performConfigure_same (s := { s with input := rest }) hi
  case idle => exact fun s hin hu => by rw [step_of_no_item hin, unattended, hu]; rfl
  case busy => exact fun s hin hu => by rw [step_of_no_item hin, unattended, hu]; rfl

end Sys2Proof.Machine
end

section
/-! PROOF. The statements of 30_encoding.md: the decoder and the encoder are inverse (R50, R51), the reserved words and
the match and mask table (R55), the fields a rule ignores (R54), the width of a result (R56), the word presented from
outside, and an operation split and resumed (R62). -/

namespace Sys2Proof

/-! ### The decoder and the encoder -/

theorem unlessSet_eq_ok {b : Bool} {i j : Instr} : unlessSet b i = .ok j ↔ b = false ∧ i = j := by
  cases b <;> simp [unlessSet]

/-- A row of the table that answers gives the operation whose word has the row's fields. -/
theorem encode_of_decodeRow {op : BitVec 4} {e f : Bool} {data : Byte} {i : Instr}
    (h : decodeRow op e f data = .ok i) : encode i = assemble op e f data := by
  unfold decodeRow at h
  split at h
  case h_9 hop =>
    cases h
    simp [encode, assemble, hop]
  case h_10 => cases h
  all_goals
    rename_i hop
    obtain ⟨hz, rfl⟩ := unlessSet_eq_ok.mp h
    simp_all [encode, assemble]

theorem decode_encode (i : Instr) : decode (encode i) = .ok i := by
  cases i <;> rw [encode, decode_assemble] <;> rfl

theorem encode_of_decode {w : OpWord} {i : Instr} (h : decode w = .ok i) : encode i = w := by
  unfold decode at h
  split at h
  · next hz => rw [encode_of_decodeRow h, assemble_fields w hz]
  · cases h

/-- The decoder and the encoder are inverse to each other, on the words that decode. -/
theorem decode_eq_ok_iff {w : OpWord} {i : Instr} : decode w = .ok i ↔ encode i = w :=
  ⟨encode_of_decode, fun h => h ▸ decode_encode i⟩

/-- Settles O1: the fields of the assembled word select the operation's own row. -/
theorem decodeOfEncodeIsIdentity : Obligations.DecodeOfEncodeIsIdentity := decode_encode

/-- Settles O2: the row fixes OP and the must-be-zero fields, and a word with `Z = 0` is assembled from its fields. -/
theorem encodeOfDecodeIsIdentity : Obligations.EncodeOfDecodeIsIdentity := fun _ _ => encode_of_decode

/-- Settles O4: each word is that of its operation. -/
theorem specWordsDecode : Obligations.SpecWordsDecode :=
  ⟨decode_encode .init, decode_encode (.write true 0x41), decode_encode .txfree, decode_encode .tryread,
    decode_encode (.txisr true), decode_encode (.rxisr true false 0x12)⟩

/-! ### The reserved words -/

theorem unlessSet_eq_error {b : Bool} {i : Instr} : (∃ why, unlessSet b i = .error why) ↔ b = true := by
  cases b <;> simp [unlessSet]

/-- The fields at which a row of the table is missing, or a must-be-zero field of the row is not zero (R55). -/
theorem decodeRow_eq_error {op : BitVec 4} {e f : Bool} {data : Byte} :
    (∃ why, decodeRow op e f data = .error why) ↔ op = 0x7 ∨ 0xA ≤ op ∨ (e = true ∧ op ≠ 0x9) ∨
      (f = true ∧ op ≠ 0x1 ∧ op ≠ 0x8 ∧ op ≠ 0x9) ∨ (data ≠ 0 ∧ op ≠ 0x1 ∧ op ≠ 0x9) := by
  unfold decodeRow
  split
  case h_10 =>
    have hop : op = 0x7 ∨ 0xA ≤ op := by
      simp only [imp_false] at *
      bv_omega
    exact ⟨fun _ => by simpa only [or_assoc] using Or.inl hop, fun _ => ⟨_, rfl⟩⟩
  case h_9 hop =>
    obtain rfl : op = 0x9 := BitVec.eq_of_toNat_eq hop
    simp
  all_goals
    rename_i hop
    have hop := congrArg (BitVec.ofNat 4) hop
    simp only [BitVec.ofNat_toNat, BitVec.setWidth_eq] at hop
    subst hop
    simp [unlessSet_eq_error, or_assoc]

/-- A word fails to decode where `Z` is not zero, or where the row of its fields does (R55). -/
theorem decode_eq_error {w : OpWord} : (∃ why, decode w = .error why) ↔
    fieldZ w ≠ 0 ∨ ∃ why, decodeRow (fieldOP w) (fieldE w) (fieldF w) (fieldDATA w) = .error why := by
  unfold decode
  split <;> simp_all

/-! ### The match and mask table

The fields that a mask keeps whole are those of the match. -/

theorem extractLsb'_of_masked {a n : Nat} {w m v : OpWord} (h : w &&& m = v)
    (hm : m.extractLsb' a n = BitVec.allOnes n) : w.extractLsb' a n = v.extractLsb' a n := by
  rw [← h, BitVec.extractLsb'_and, hm, BitVec.and_allOnes]

theorem fieldOP_of_masked {w m v : OpWord} (h : w &&& m = v) (hm : fieldOP m = 0xF) : fieldOP w = fieldOP v :=
  extractLsb'_of_masked h hm

theorem fieldZ_of_masked {w m v : OpWord} (h : w &&& m = v) (hm : fieldZ m = 0x3) : fieldZ w = fieldZ v :=
  extractLsb'_of_masked h hm

theorem fieldE_of_masked {w m v : OpWord} (h : w &&& m = v) (hm : fieldE m = true) : fieldE w = fieldE v := by
  have hand : fieldE (w &&& m) = (fieldE w && fieldE m) := BitVec.getLsbD_and ..
  rw [← h, hand, hm, Bool.and_true]

theorem fieldDATA_of_masked {w m v : OpWord} (h : w &&& m = v) (hm : fieldDATA m = 0xFF) :
    fieldDATA w = fieldDATA v :=
  extractLsb'_of_masked h hm

/-- The row of an operation without operands: its mask keeps the word whole. -/
theorem decode_iff_masked (i : Instr) (w : OpWord) : decode w = .ok i ↔ w &&& 0xFFFF = encode i := by
  have hall : w &&& 0xFFFF = w := BitVec.and_allOnes
  rw [hall, decode_eq_ok_iff, eq_comm]

theorem decode_write_iff_masked (w : OpWord) : (∃ f d, decode w = .ok (.write f d)) ↔ w &&& 0xFE00 = 0x1000 := by
  refine ⟨fun ⟨f, d, h⟩ => encode_of_decode h ▸ Laws.TableMatch.write f d, fun h => ⟨fieldF w, fieldDATA w, ?_⟩⟩
  have hop : fieldOP w = 0x1 := fieldOP_of_masked h rfl
  have he : fieldE w = false := fieldE_of_masked h rfl
  rw [decode_eq_ok_iff, encode, ← hop, ← he]
  exact assemble_fields w (fieldZ_of_masked h rfl)

theorem decode_txisr_iff_masked (w : OpWord) : (∃ f, decode w = .ok (.txisr f)) ↔ w &&& 0xFEFF = 0x8000 := by
  refine ⟨fun ⟨f, h⟩ => encode_of_decode h ▸ Laws.TableMatch.txisr f, fun h => ⟨fieldF w, ?_⟩⟩
  have hop : fieldOP w = 0x8 := fieldOP_of_masked h rfl
  have he : fieldE w = false := fieldE_of_masked h rfl
  have hd : fieldDATA w = 0 := fieldDATA_of_masked h rfl
  rw [decode_eq_ok_iff, encode, ← hop, ← he, ← hd]
  exact assemble_fields w (fieldZ_of_masked h rfl)

theorem decode_rxisr_iff_masked (w : OpWord) :
    (∃ e f d, decode w = .ok (.rxisr e f d)) ↔ w &&& 0xFC00 = 0x9000 := by
  refine ⟨fun ⟨e, f, d, h⟩ => encode_of_decode h ▸ Laws.TableMatch.rxisr e f d,
    fun h => ⟨fieldE w, fieldF w, fieldDATA w, ?_⟩⟩
  have hop : fieldOP w = 0x9 := fieldOP_of_masked h rfl
  rw [decode_eq_ok_iff, encode, ← hop]
  exact assemble_fields w (fieldZ_of_masked h rfl)

/-- Settles O3: the words whose row fails, their refusal before the agent is looked at, and one row of the table after
the other. -/
theorem reservedWordsAreRefused : Obligations.ReservedWordsAreRefused := by
  intro w
  refine ⟨?reserved, ?refused, decode_iff_masked .init w, decode_write_iff_masked w, decode_iff_masked .txfree w,
    decode_iff_masked .txidle w, decode_iff_masked .tryread w, decode_iff_masked .readb w, decode_iff_masked .avail w,
    decode_txisr_iff_masked w, decode_rxisr_iff_masked w⟩
  case reserved =>
    rw [decode_eq_error, decodeRow_eq_error]
    tauto
  case refused =>
    intro why hd s agent upto rest hin
    rw [Machine.step_of_item hin, Machine.perform, Machine.performRequest, hd]

end Sys2Proof

namespace Sys2Proof.Machine

/-! ### A word presented from outside -/

/-- The agent of a word is told by `OP` alone (R51, R53). -/
theorem agentOf_eq_fieldOP (w : OpWord) : agentOf w =
    if (fieldOP w).getLsbD 3 then if (fieldOP w).getLsbD 0 then .rxHandler else .txHandler else .mainline := by
  simp [agentOf, fieldOP]

theorem agentOf_encode (i : Instr) : agentOf (encode i) = i.agent := by
  rw [agentOf_eq_fieldOP]
  cases i <;> rw [encode, fieldOP_assemble] <;> rfl

theorem tableWord_toNat (w : OpWord) : tableWord 16 w.toNat = w := by
  rw [tableWord, Nat.mod_eq_of_lt w.isLt, BitVec.ofNat_toNat, BitVec.setWidth_eq]

theorem decodeTableWord_encode (i : Instr) : decodeTableWord 16 (encode i).toNat = some i := by
  rw [decodeTableWord, if_pos (Nat.mod_lt _ (by decide)), tableWord_toNat, decode_encode]
  rfl

/-- Settles O6: the word is presented by the agent to which its operation belongs, so its request is performed. -/
theorem fetchedWordIsPerformed : Obligations.FetchedWordIsPerformed := by
  intro i s
  refine ⟨decodeTableWord_encode i, ?_⟩
  have hin : (s.withFetchWord 16 (encode i).toNat).input = .request i.agent (encode i) none :: s.input := by
    rw [State.withFetchWord, tableWord_toNat, requestOf, agentOf_encode]
  exact step_request hin (decode_encode i) (decide_eq_true rfl)

/-! ### Results -/

theorem byte_lt_valueWidth (b : Byte) (c : Cfg) : b.toNat < 2 ^ valueWidth c :=
  b.isLt.trans_le (Nat.pow_le_pow_right (by decide) (Nat.le_max_left 8 c.w))

/-- A count of free slots fits `W` bits, for the capacity of a legal configuration does (R13, R70). -/
theorem free_lt_valueWidth {c : Cfg} (hl : c.legal = true) (h t : Nat) : free c.nTx h t < 2 ^ valueWidth c := by
  obtain ⟨hmin, hmax, -⟩ := (legal_iff c).mp hl
  have hfree := (free_range h t (show 0 < c.nTx by omega)).2
  have hpos := Nat.two_pow_pos c.w
  have hw : 2 ^ c.w ≤ 2 ^ valueWidth c := Nat.pow_le_pow_right (by decide) (Nat.le_max_right 8 c.w)
  omega

theorem resultFits_of_complete {r : Result} {s : State} (h : r.value < 2 ^ valueWidth s.cfg) :
    ResultFits (complete (some r) s) := by
  intro _ _ hr
  exact Option.some.inj hr ▸ h

/-- A micro-step completes with a byte, a count or a Boolean, or leaves the result held (R56). -/
theorem microStep_resultFits {s t : State} (hl : s.cfg.legal = true) (hs : ResultFits s)
    (h : (microStep s).state? = some t) : ResultFits t := by
  have hzero := Nat.two_pow_pos (valueWidth s.cfg)
  cases microStep_cases h
  case w7 | t1None | t3Last | t5Last | t6 => exact resultFits_of_complete (byte_lt_valueWidth _ _)
  case f1 => exact resultFits_of_complete (free_lt_valueWidth hl _ _)
  case i1 | a1 => exact resultFits_of_complete hzero
  all_goals simpa [ResultFits] using hs

theorem kept_resultFits : Kept ResultFits where
  input _ _ hs := hs
  configure _ _ hi _ := by simp [ResultFits, hi]
  init _ _ _ _ := by simp [ResultFits]
  start _ _ _ _ hs := hs
  micro _ _ ha hs h := microStep_resultFits ha.1 hs h
  transmit _ _ _ _ hs h := by
    obtain ⟨-, rfl⟩ | ⟨-, -, -, rfl⟩ | ⟨-, -, -, -, rfl⟩ := transmitHandler_next h <;> exact hs
  receive _ _ _ _ _ _ hs h := by
    obtain ⟨-, rfl⟩ | ⟨-, -, rfl⟩ | ⟨-, -, -, rfl⟩ := receiveHandler_next h
    · exact hs
    · simpa [ResultFits] using hs
    · simpa [ResultFits, receivedAtHead] using hs

/-- Settles O60: that the result held fits its width is a kept property. -/
theorem stepKeepsResultsInWidth : Obligations.StepKeepsResultsInWidth := fun _ _ => kept_resultFits.step

/-! ### Runs of micro-steps -/

/-- A run goes on past a micro-step that is not the last one asked for (R62). -/
theorem runMicro_onward {upto : Option Label} {s t : State} (hm : microStep s = .onward t) (hl : s.upc.label ≠ upto)
    (k : Nat) : runMicro upto (k + 1) s = runMicro upto k t := by
  simp [runMicro, hm, hl]

/-! ### Ignored fields -/

/-- Where the transmit FIFO is not empty, W1 sends a WRITE to W4 and F is not sampled (R54, R86). -/
theorem runMicro_write_queued (f : Bool) (d : Byte) {s : State} (hne : s.tx.head ≠ s.tx.tail) (k : Nat) :
    runMicro none (k + 2) (goTo (.w0 d f) s) = runMicro none k (goTo (.w4 d s.tx.head s.tx.tail none none) s) := by
  have h0 : microStep (goTo (.w0 d f) s) = .onward (goTo (.w1 d f s.tx.head) s) := rfl
  have h1 : microStep (goTo (.w1 d f s.tx.head) s) = .onward (goTo (.w4 d s.tx.head s.tx.tail none none) s) :=
    if_neg (by simpa using hne)
  rw [runMicro_onward h0 (by simp [Upc.label]), runMicro_onward h1 (by simp [Upc.label])]

theorem exec_write_queued (f f' : Bool) (d : Byte) {s : State} (hne : s.tx.head ≠ s.tx.tail) :
    exec (.write f d) s = exec (.write f' d) s := by
  have hrun : ∀ f, runMicro none microBound (goTo (.w0 d f) s) =
      runMicro none 7 (goTo (.w4 d s.tx.head s.tx.tail none none) s) := fun f => runMicro_write_queued f d hne 7
  simp only [exec, execWrite, issue, issueUpto, hrun]

theorem receiveHandler_of_no_flag (e : Bool) (d : Byte) (s : State) : receiveHandler e false d s = .next s := rfl

theorem receiveHandler_of_error (d : Byte) (s : State) : receiveHandler true true d s = .next (recoverReceive s) := rfl

/-- Settles O36: the cases of RXISR without data, and a WRITE that is queued, do not use the field. -/
theorem ignoredFieldsHaveNoEffect : Obligations.IgnoredFieldsHaveNoEffect := by
  refine ⟨fun s e e' d d' => ?_, fun s d d' => ?_, fun s d hne => exec_write_queued false true d hne⟩
  · simp only [exec, execRxisr, receiveHandler_of_no_flag]
  · simp only [exec, execRxisr, receiveHandler_of_error]

/-! ### A run split -/

/-- A run stops at a wait, unless `upto` names the micro-step to which the operation has returned (R62). -/
theorem runMicro_waiting {upto : Option Label} {s t : State} (hm : microStep s = .waiting t) (hl : t.upc.label ≠ upto)
    (k : Nat) : runMicro upto (k + 1) s = .next t := by
  simp [runMicro, hm, hl]

/-- Spinning at W4 changes nothing (R88). -/
theorem microStep_spinning {s : State} {d : Byte} {h t : Nat} {r : Option Bool}
    (hu : s.upc = .w4 d h t r (some (s.tx.tail, s.next .tx h))) (hf : nextOffset s.cfg.nTx h = s.tx.tail)
    (hp : s.cfg.policy = .block) : microStep s = .waiting s := by
  have hgo : goTo (.w4 d h t r (some (s.tx.tail, s.next .tx h))) s = s := by rw [← hu]; rfl
  have hfull : isFull s.cfg.nTx h s.tx.tail = true := by simpa using hf
  simp only [microStep, hu, microW4, hfull, hp, noteOverflowOnce, hgo, if_true]

/-- READB finds nothing at T1 and starts over, to wait at T0 (R99). -/
theorem microStep_readb_empty {s : State} (he : s.rx.head = s.rx.tail) :
    microStep (goTo (.t1 .readb s.rx.head) s) = .waiting (goTo (.t0 .readb) s) := by
  have hempty : (goTo (.t1 .readb s.rx.head) s).empty .rx = true := by simpa using he
  have heq : isEmpty s.rx.head s.rx.tail = true := by simpa using he
  simp only [microStep, goTo_upc, goTo_rx, microT1, heq, notFound, startOver, hempty, if_true]
  rfl

/-- Further rounds of a wait with no handler between change nothing (R88, R99), unless `upto` names the micro-step waited
at. -/
theorem runMicro_waited {upto : Option Label} {s t : State} (hm : microStep s = .waiting t)
    (ht : t.upc.label ≠ upto) (k : Nat) : runMicro upto (k + 2) t = .next t := by
  obtain ⟨d, h, tl, r, seen, -, hf, hp, rfl⟩ | ⟨h, -, -, he, rfl⟩ := microStep_waiting hm
  · have hseen : some (s.tx.tail, s.next .tx h) = some ((noteOverflowOnce d seen s).tx.tail,
        (noteOverflowOnce d seen s).next .tx h) := by simp
    have hspin := microStep_spinning (s := goTo _ (noteOverflowOnce d seen s))
      (congrArg (Upc.w4 d h tl r) hseen) (by simpa using hf) (by simpa using hp)
    exact runMicro_waiting hspin ht _
  · have hstart : microStep (goTo (.t0 .readb) s) = .onward (goTo (.t1 .readb s.rx.head) s) := rfl
    rw [runMicro_onward hstart ht, runMicro_waiting (microStep_readb_empty he) ht]

theorem label_eq_none_iff (u : Upc) : u.label = none ↔ u = .idle := by
  cases u <;> simp [Upc.label]

theorem label_of_waiting {s t : State} (hm : microStep s = .waiting t) : t.upc.label ≠ none := by
  obtain ⟨d, h, tl, r, seen, -, -, -, rfl⟩ | ⟨h, -, -, -, rfl⟩ := microStep_waiting hm <;> simp [Upc.label]

/-- A run goes on with as many micro-steps allowed as before. -/
theorem runMicro_bound_onward {upto : Option Label} {s t : State} (hm : microStep s = .onward t)
    (hl : s.upc.label ≠ upto) : runMicro upto microBound s = runMicro upto microBound t := by
  have hlt : t.remaining < 8 := (microStep_onward hm).1.trans_le (Nat.le_of_lt_succ s.remaining_lt)
  exact (runMicro_onward hm hl 8).trans (runMicro_enough hlt t.remaining_lt)

theorem runMicro_done {s t : State} (hm : microStep s = .done t) (upto : Option Label) (k : Nat) :
    runMicro upto (k + 1) s = .next t := by
  rw [runMicro, hm]

theorem runMicro_of_idle {s : State} (hu : s.upc = .idle) (upto : Option Label) (k : Nat) :
    runMicro upto (k + 1) s = .next s :=
  runMicro_done (by rw [microStep, hu]) upto k

/-- What an operation comes to with no handler between is what it comes to after one micro-step. -/
theorem runMicro_none_microStep {s t : State} (h : (microStep s).state? = some t) :
    runMicro none microBound t = runMicro none microBound s := by
  cases hm : microStep s with
  | onward t' =>
    obtain rfl : t' = t := by simpa [hm] using h
    have hbusy := (microStep_onward hm).2.1
    exact (runMicro_bound_onward hm (by simpa [label_eq_none_iff] using hbusy)).symm
  | waiting t' =>
    obtain rfl : t' = t := by simpa [hm] using h
    have hl := label_of_waiting hm
    exact (runMicro_waited hm hl 7).trans (runMicro_waiting hm hl 8).symm
  | done t' =>
    obtain rfl : t' = t := by simpa [hm] using h
    exact (runMicro_of_idle (microStep_done hm) none 8).trans (runMicro_done hm none 8).symm
  | fault r => simp [hm] at h

/-- Nor is it changed by a run up to a label (R62). -/
theorem runMicro_none_runMicro {upto : Option Label} {k : Nat} {s t : State} (ha : Armed s)
    (h : runMicro upto k s = .next t) : runMicro none microBound t = runMicro none microBound s ∧ Armed t :=
  runMicro_keeps (P := fun x => runMicro none microBound x = runMicro none microBound s)
    (fun _ _ _ hx hm => (runMicro_none_microStep hm).trans hx) ha rfl h

theorem resumeUpto_of_armed {s : State} (ha : Armed s) (upto : Option Label) :
    resumeUpto upto s = runMicro upto microBound s := by
  rw [resumeUpto, blocked_of_armed ha]

theorem exec_of_ready {i : Instr} {u : Upc} {s : State} (hu : startOf i = some u) (hr : Ready s) :
    exec i s = runMicro none microBound (goTo u s) := by
  rw [exec_of_startOf hu, issue, issueUpto, blockedMainline_of_ready hr]

/-- Where a run up to a label stops, the whole of it has completed, or RESUME gives the outcome of the whole. -/
theorem resume_of_split {l : Label} {s t : State} (ha : Armed s) (h : runMicro (some l) microBound s = .next t) :
    (t.upc = .idle → runMicro none microBound s = .next t) ∧
      (t.upc ≠ .idle → resumeUpto none t = runMicro none microBound s) := by
  obtain ⟨hrun, hat⟩ := runMicro_none_runMicro ha h
  rw [← hrun]
  exact ⟨fun hu => runMicro_of_idle hu none 8, fun _ => resumeUpto_of_armed hat none⟩

/-- Resumed up to the label it stands at, an operation performs that one micro-step (R62). -/
theorem resumeUpto_own_label {l : Label} {s : State} (hl : s.upc.label = some l) :
    resumeUpto (some l) s = advance s := by
  unfold resumeUpto advance
  cases blocked s with
  | some r => rfl
  | none =>
    rw [microBound, runMicro]
    cases microStep s <;> simp [hl]

/-- Resumed up to another label, an operation that one micro-step does not complete goes on up to the label (R62). -/
theorem resumeUpto_other_label {l : Label} {s t : State} (hl : s.upc.label ≠ some l) (h : advance s = .next t) :
    (t.upc = .idle → resumeUpto (some l) s = .next t) ∧
      (t.upc ≠ .idle → resumeUpto (some l) s = resumeUpto (some l) t) := by
  obtain ⟨ha, hs⟩ := advance_next h
  rw [resumeUpto_of_armed ha, resumeUpto_of_armed (microStep_armed hs ha)]
  cases hm : microStep s with
  | onward t' =>
    obtain rfl : t' = t := by simpa [hm] using hs
    exact ⟨fun hu => absurd hu (microStep_onward hm).2.2, fun _ => runMicro_bound_onward hm hl⟩
  | waiting t' =>
    obtain rfl : t' = t := by simpa [hm] using hs
    refine ⟨fun hu => absurd ((label_eq_none_iff _).mpr hu) (label_of_waiting hm), fun _ => ?_⟩
    by_cases ht : t'.upc.label = some l
    · have hr : ReturnsTo (some l) s t' := by simp [ht, hl]
      have hrun : runMicro (some l) microBound s = runMicro (some l) 8 t' := by
        rw [microBound, runMicro, hm]
        exact if_pos hr
      exact hrun.trans ((runMicro_returned hm hr).trans (runMicro_returned hm hr).symm)
    · exact (runMicro_waiting hm ht 8).trans (runMicro_waited hm ht 7).symm
  | done t' =>
    obtain rfl : t' = t := by simpa [hm] using hs
    have hrun := runMicro_done hm (some l) 8
    exact ⟨fun _ => hrun, fun hu => absurd (microStep_done hm) hu⟩
  | fault r => simp [hm] at hs

/-- Settles O45: one micro-step does not change what an operation comes to with no handler between, so no run up to a
label does; and the run up to a label begins with one micro-step. -/
theorem splitOperationEqualsWhole : Obligations.SplitOperationEqualsWhole := by
  refine ⟨fun i l s s1 h => ?_, fun l s s1 h => ?_, fun l s hl => resumeUpto_own_label hl,
    fun l s s1 hl h => resumeUpto_other_label hl h⟩
  · obtain ⟨u, hu, hr, hrun⟩ := execUpto_next h
    rw [exec_of_ready hu hr]
    exact resume_of_split (s := goTo u s) hr.1 hrun
  · obtain ⟨ha, hrun⟩ := resumeUpto_next h
    rw [resumeUpto_of_armed ha none]
    exact resume_of_split ha hrun

end Sys2Proof.Machine
end

section
/-! PROOF. The statements of 40_circular_buffer.md: the offset arithmetic (R66, R69, R70), two instances that are
independent (R64), and FIFO order in both directions (R74). -/

namespace Sys2Proof.Machine

/-! ### The offset arithmetic -/

/-- Settles O14: the closed forms of `next` and `occ`, and what a push and a pop do to `occ`. -/
theorem offsetArithmeticLaws : Obligations.OffsetArithmeticLaws := by
  intro n h t hn hh ht
  have hlt := occ_lt h t (show 0 < n by omega)
  have hocc := occ_of_lt hh ht
  have hnext := nextOffset_of_lt hh
  obtain ⟨hfree, hfree'⟩ := free_range h t (show 0 < n by omega)
  refine ⟨?next, nextOffset_lt h (by omega), hocc, by omega, rfl, hfree, hfree', ?sum, ?empty, ?full, ?push, ?pop⟩
  case next => rw [hnext]; split_ifs <;> omega
  case sum => unfold free; omega
  case empty => rw [isEmpty_eq_true, hocc]; split_ifs <;> omega
  case full => rw [isFull_eq_true, hnext, hocc]; split_ifs <;> omega
  case push => exact fun hf => occ_next_head hn hh ht (by simpa using hf)
  case pop => exact fun he => (occ_next_tail hn hh ht (by simpa using he)).symm

/-! ### Independent instances: one micro-step

What holds of both instances is stated of the instance `y` that the operation does not use, with `q` in its place. -/

/-- The instance that the micro-steps of a label's rule use (R64). -/
def labelSide : Label → Side
  | .w0 | .w1 | .w2 | .w3 | .w4 | .w5 | .w6 | .w7 | .f0 | .f1 | .i0 | .i1 => .tx
  | .t0 | .t1 | .t2 | .t3 | .t4 | .t5 | .t6 | .a0 | .a1 => .rx

/-- The operation in progress uses the instance other than `y`. -/
def Upc.AwayFrom (y : Side) (u : Upc) : Prop := ∀ l ∈ u.labels, labelSide l ≠ y

theorem microStep_awayFrom {y : Side} {s t : State} (hs : s.upc.AwayFrom y) (h : (microStep s).state? = some t) :
    t.upc.AwayFrom y :=
  fun l hl => hs l (microStep_labels_subset h hl)

section
variable (q : Fifo)

theorem memWrite_setFifo_rx (o : Nat) (v : Byte) (s : State) :
    memWrite .tx o v (s.setFifo .rx q) = (memWrite .tx o v s).map (State.setFifo · .rx q) :=
  ite_eq_apply_ite rfl rfl

theorem memWrite_setFifo_tx (o : Nat) (v : Byte) (s : State) :
    memWrite .rx o v (s.setFifo .tx q) = (memWrite .rx o v s).map (State.setFifo · .tx q) :=
  ite_eq_apply_ite rfl rfl

theorem noteOverflowOnce_setFifo_rx (d : Byte) (seen : Option (Nat × Nat)) (s : State) :
    noteOverflowOnce d seen (s.setFifo .rx q) = (noteOverflowOnce d seen s).setFifo .rx q := by
  cases seen <;> rfl

theorem microW4_setFifo_rx (d : Byte) (h t : Nat) (r : Option Bool) (seen : Option (Nat × Nat)) (s : State) :
    microW4 d h t r seen (s.setFifo .rx q) = (microW4 d h t r seen s).map (State.setFifo · .rx q) := by
  refine ite_eq_apply_ite ?_ rfl
  rw [setFifo_rx_cfg, noteOverflowOnce_setFifo_rx]
  cases s.cfg.policy <;> rfl

theorem microW5_setFifo_rx (d : Byte) (h t : Nat) (r : Option Bool) (t2 n : Nat) (s : State) :
    microW5 d h t r t2 n (s.setFifo .rx q) = (microW5 d h t r t2 n s).map (State.setFifo · .rx q) := by
  unfold microW5
  rw [memWrite_setFifo_rx]
  cases memWrite .tx h d s <;> rfl

theorem notFound_setFifo_tx (op : ReadOp) (s : State) :
    notFound op (s.setFifo .tx q) = (notFound op s).map (State.setFifo · .tx q) := by
  cases op
  · rfl
  · exact ite_eq_apply_ite rfl rfl

theorem microT2_setFifo_tx (op : ReadOp) (h t : Nat) (s : State) :
    microT2 op h t (s.setFifo .tx q) = (microT2 op h t s).map (State.setFifo · .tx q) := by
  have hread : memRead .rx t (s.setFifo .tx q) = memRead .rx t s := rfl
  unfold microT2
  rw [hread]
  cases memRead .rx t s <;> rfl

/-- A micro-step of WRITE, TXFREE or TXIDLE neither reads nor writes the receive instance. -/
theorem microStep_setFifo_rx {s : State} (hs : s.upc.AwayFrom .rx) :
    microStep (s.setFifo .rx q) = (microStep s).map (State.setFifo · .rx q) := by
  unfold microStep
  rw [setFifo_rx_upc]
  cases hu : s.upc
  case w1 => exact ite_eq_apply_ite rfl rfl
  case w2 => exact ite_eq_apply_ite rfl rfl
  case w4 => exact microW4_setFifo_rx q ..
  case w5 => exact microW5_setFifo_rx q ..
  case t0 | t1 | t2 | t3 | t4 | t5 | t6 | a0 | a1 => simp [Upc.AwayFrom, hu, Upc.labels, labelSide] at hs
  all_goals rfl

/-- A micro-step of TRYREAD, READB or AVAIL neither reads nor writes the transmit instance. -/
theorem microStep_setFifo_tx {s : State} (hs : s.upc.AwayFrom .tx) :
    microStep (s.setFifo .tx q) = (microStep s).map (State.setFifo · .tx q) := by
  unfold microStep
  rw [setFifo_tx_upc]
  cases hu : s.upc
  case t1 => exact ite_eq_apply_ite (notFound_setFifo_tx q ..) rfl
  case t2 => exact microT2_setFifo_tx q ..
  case t3 => exact ite_eq_apply_ite rfl rfl
  case t5 => exact ite_eq_apply_ite rfl rfl
  case t0 | t4 | t6 | a0 | a1 | idle => rfl
  all_goals simp [Upc.AwayFrom, hu, Upc.labels, labelSide] at hs

/-! ### Independent instances: whole operations -/

theorem runMicro_setFifo {y : Side} {upto : Option Label} {k : Nat} {s : State} (hs : s.upc.AwayFrom y) :
    runMicro upto k (s.setFifo y q) = mapNext (State.setFifo · y q) (runMicro upto k s) := by
  induction k generalizing s with
  | zero => rfl
  | succ k ih =>
    have hm : microStep (s.setFifo y q) = (microStep s).map (State.setFifo · y q) := by
      cases y
      · exact microStep_setFifo_tx q hs
      · exact microStep_setFifo_rx q hs
    have hu (x : State) : (x.setFifo y q).upc = x.upc := by cases y <;> rfl
    unfold runMicro
    rw [hm]
    cases hm : microStep s with
    | onward t =>
      simp only [Progress.map, hu]
      exact ite_eq_apply_ite rfl (ih (microStep_awayFrom hs (congrArg Progress.state? hm)))
    | waiting t =>
      simp only [Progress.map, hu]
      exact ite_eq_apply_ite (ih (microStep_awayFrom hs (congrArg Progress.state? hm))) rfl
    | done t => rfl
    | fault r => rfl

/-- A mainline operation answers the same with another `y` in place, which stays (R64). -/
theorem exec_setFifo_of_startOf {y : Side} {i : Instr} {u : Upc} (hu : startOf i = some u) (ha : u.AwayFrom y)
    (s : State) : exec i (s.setFifo y q) = mapNext (State.setFifo · y q) (exec i s) := by
  have hb : blockedMainline (s.setFifo y q) = blockedMainline s := by cases y <;> rfl
  have hg : goTo u (s.setFifo y q) = (goTo u s).setFifo y q := by cases y <;> rfl
  rw [exec_of_startOf hu, exec_of_startOf hu, issue, issue, issueUpto, issueUpto, hb, hg,
    runMicro_setFifo q (by exact ha)]
  cases blockedMainline s <;> rfl

theorem transmitHandler_setFifo (f : Bool) (s : State) :
    transmitHandler f (s.setFifo .rx q) = mapNext (State.setFifo · .rx q) (transmitHandler f s) := by
  have hpop : popStep .tx (s.setFifo .rx q) = (popStep .tx s).map (Prod.map id (State.setFifo · .rx q)) := by
    have hread : memRead .tx s.tx.tail (s.setFifo .rx q) = memRead .tx s.tx.tail s := rfl
    unfold popStep
    simp only [fifo_tx, setFifo_rx_tx, hread]
    cases memRead .tx s.tx.tail s <;> rfl
  refine ite_eq_apply_ite (ite_eq_apply_ite rfl ?_) rfl
  rw [hpop]
  cases popStep .tx s <;> rfl

theorem openGate_setFifo (s : State) : openGate (s.setFifo .tx q) = (openGate s).setFifo .tx q :=
  ite_eq_apply_ite (k := (State.setFifo · .tx q)) rfl rfl

theorem recoverReceive_setFifo (s : State) : recoverReceive (s.setFifo .tx q) = (recoverReceive s).setFifo .tx q :=
  openGate_setFifo q (resetStep .rx (flush (raise .receiveHardwareError s)))

theorem invokeCallback_setFifo (v : Byte) (s : State) :
    invokeCallback v (s.setFifo .tx q) = (invokeCallback v s).setFifo .tx q :=
  ite_eq_apply_ite (k := (State.setFifo · .tx q)) rfl rfl

theorem commitOrDrop_setFifo (v : Byte) (s : State) :
    commitOrDrop v (s.setFifo .tx q) = (commitOrDrop v s).setFifo .tx q :=
  ite_eq_apply_ite (k := (State.setFifo · .tx q)) rfl rfl

theorem closeGate_setFifo (s : State) : closeGate (s.setFifo .tx q) = (closeGate s).setFifo .tx q :=
  ite_eq_apply_ite (k := (State.setFifo · .tx q)) rfl rfl

theorem receiveData_setFifo (v : Byte) (s : State) :
    receiveData v (s.setFifo .tx q) = mapNext (State.setFifo · .tx q) (receiveData v s) := by
  have hw : memWrite .rx (s.setFifo .tx q).rx.head v (emit .rxregRead (s.setFifo .tx q)) =
      (memWrite .rx s.rx.head v (emit .rxregRead s)).map (State.setFifo · .tx q) :=
    memWrite_setFifo_tx q s.rx.head v (emit .rxregRead s)
  unfold receiveData
  rw [hw]
  cases memWrite .rx s.rx.head v (emit .rxregRead s) with
  | error r => rfl
  | ok s' => simp only [Except.map, mapNext, invokeCallback_setFifo, commitOrDrop_setFifo, closeGate_setFifo]

theorem receiveHandler_setFifo (e f : Bool) (d : Byte) (s : State) :
    receiveHandler e f d (s.setFifo .tx q) = mapNext (State.setFifo · .tx q) (receiveHandler e f d s) := by
  unfold receiveHandler
  cases classify e f with
  | noEvent => rfl
  | hardwareError => exact congrArg Host.Outcome.next (recoverReceive_setFifo q s)
  | data => exact receiveData_setFifo q d s

theorem exec_txisr_setFifo (f : Bool) (s : State) :
    exec (.txisr f) (s.setFifo .rx q) = mapNext (State.setFifo · .rx q) (exec (.txisr f) s) := by
  have hb : blocked (s.setFifo .rx q) = blocked s := rfl
  rw [exec, exec, execTxisr, execTxisr, hb, transmitHandler_setFifo]
  cases blocked s <;> rfl

theorem exec_rxisr_setFifo (e f : Bool) (d : Byte) (s : State) :
    exec (.rxisr e f d) (s.setFifo .tx q) = mapNext (State.setFifo · .tx q) (exec (.rxisr e f d) s) := by
  have hb : blocked (s.setFifo .tx q) = blocked s := rfl
  rw [exec, exec, execRxisr, execRxisr, hb, receiveHandler_setFifo]
  cases blocked s <;> rfl

end

/-- Settles O44: each mainline operation has its labels on one instance, and each handler commutes with a change of the
other instance. -/
theorem instancesAreIndependent : Obligations.InstancesAreIndependent := by
  refine ⟨fun i s q hi => ?_, fun i s q hi => ?_⟩
  · obtain ⟨f, d, rfl⟩ | rfl | rfl | ⟨f, rfl⟩ := hi
    case inr.inr.inr => exact exec_txisr_setFifo q f s
    all_goals exact exec_setFifo_of_startOf (y := .rx) q rfl (by simp [Upc.AwayFrom, Upc.labels, labelSide]) s
  · obtain rfl | rfl | rfl | ⟨e, f, d, rfl⟩ := hi
    case inr.inr.inr => exact exec_rxisr_setFifo q e f d s
    all_goals exact exec_setFifo_of_startOf (y := .tx) q rfl (by simp [Upc.AwayFrom, Upc.labels, labelSide]) s

/-! ### What the queue and the bytes sent depend on -/

theorem armed_cap {s : State} (ha : Armed s) (x : Side) : 2 ≤ s.cap x := by
  obtain ⟨htx, -, hrx, -⟩ := (legal_iff s.cfg).mp ha.1
  cases x
  · exact htx
  · exact hrx

theorem queued_of_fifo_eq {s t : State} {x : Side} (hc : t.cfg = s.cfg) (hq : t.fifo x = s.fifo x) :
    t.queued x = s.queued x := by
  refine queued_congr ?_ (by rw [hq]) (by rw [hq]) fun o _ => slotByte_congr (by rw [hq]) o
  cases x <;> simp [hc]

/-- A byte stored at the head, which is outside the live window, is not queued before the head is committed (R71). -/
theorem queued_store_head {s t : State} {x : Side} {d : Byte} (hh : (s.fifo x).head < s.cap x)
    (ht : (s.fifo x).tail < s.cap x) (hc : t.cfg = s.cfg) (hq : t.fifo x = (s.fifo x).store (s.fifo x).head d) :
    t.queued x = s.queued x := by
  refine queued_congr (by cases x <;> simp [hc]) (by simp [hq]) (by simp [hq]) fun o ho => ?_
  have hne : (s.fifo x).head ≠ o := fun h => head_not_in_window hh ht (h ▸ ho)
  simp [State.slotByte, hq, Memory.get?_set_other _ _ hne]

/-! ### The transmit stream: one micro-step -/

/-- The bytes handed to the UART followed by the bytes queued for it. -/
def State.txStream (s : State) : List Byte := s.sent ++ s.queued .tx

/-- A micro-step adds to the stream the byte of W3 or of W6 (R86): at W3 nothing is queued before it, and at W6 the byte
in the slot at the head is committed. -/
theorem microStep_txStream {s t : State} (ha : Armed s) (hs : Coherent s) (h : (microStep s).state? = some t) :
    t.txStream = s.txStream ++ s.upc.handsOver := by
  have hw := hs.writer ha.2
  obtain ⟨hh, ht⟩ := hs.offsets ha.2 .tx
  have hquiet (hho : s.upc.handsOver = []) (hsent : t.sent = s.sent) (hq : t.queued .tx = s.queued .tx) :
      t.txStream = s.txStream ++ s.upc.handsOver := by
    rw [State.txStream, State.txStream, hho, hsent, hq, List.append_nil]
  cases microStep_cases h
  case w3 d hd tl r hu =>
    simp only [WriterCoherent, hu] at hw
    obtain ⟨hhead, -, htail⟩ := hw
    have hempty (x : State) (hx : x.tx = s.tx) : x.queued .tx = [] :=
      queued_of_empty (by simpa [hx] using hhead.symm.trans htail.symm)
    rw [State.txStream, State.txStream, hempty s rfl, hempty (goTo _ (emit _ s)) rfl, hu]
    simp [State.sent, sentByte, Upc.handsOver]
  case w5 hu _ =>
    simp only [WriterCoherent, hu] at hw
    obtain ⟨rfl, -⟩ := hw
    exact hquiet (by rw [hu]; rfl) rfl (queued_store_head hh ht rfl rfl)
  case w6 hu =>
    simp only [WriterCoherent, hu] at hw
    obtain ⟨rfl, rfl, hne, rfl⟩ := hw
    rw [hu, Upc.handsOver, State.txStream, State.txStream, List.append_assoc]
    exact congrArg (s.sent ++ ·) (queued_commit (armed_cap ha .tx) hh ht hne)
  all_goals
    exact hquiet (by simp [*, Upc.handsOver]) (by simp [State.sent, sentByte])
      (queued_of_fifo_eq (by simp) (by simp))

/-! ### The byte a WRITE has still to hand over -/

/-- The byte the operation in progress hands over from here on with no handler between, where a full instance is refused
it under the policies `refused` names. -/
def State.toHandOver (refused : Policy → Bool) (s : State) : List Byte :=
  match s.upc with
  | .w0 d _ | .w1 d _ _ | .w2 d _ _ _ | .w3 d _ _ _ | .w4 d _ _ _ _ =>
    if s.full .tx && refused s.cfg.policy then [] else [d]
  | .w5 d _ _ _ _ _ | .w6 d _ _ _ _ _ => [d]
  | _ => []

/-- What a WRITE owes is what it hands over once a full instance refuses it under Discard alone (R88, R89). -/
theorem owedAt_eq_toHandOver (u : Upc) (s : State) : owedAt u s = (goTo u s).toHandOver policyBit := by
  have hp : policyBit s.cfg.policy = true ↔ s.cfg.policy = .discard := by cases s.cfg.policy <;> simp [policyBit]
  cases u <;> simp [owedAt, State.toHandOver, hp]

/-- A micro-step hands its byte over or leaves it to be handed over: W4 decides as the full test at an earlier label
would have, and on the way to W3 the instance is empty (R87). -/
theorem microStep_toHandOver {refused : Policy → Bool} (hd : refused .discard = true) {s t : State} (ha : Armed s)
    (hs : Coherent s) (h : (microStep s).state? = some t) :
    s.upc.handsOver ++ t.toHandOver refused = s.toHandOver refused := by
  have hw := hs.writer ha.2
  cases microStep_cases h
  case w3 hu =>
    simp only [WriterCoherent, hu] at hw
    obtain ⟨rfl, -, htail⟩ := hw
    have hroom := not_full_of_empty (h := s.tx.head) (armed_cap ha .tx)
    simp_all [State.toHandOver, Upc.handsOver]
  all_goals simp_all [WriterCoherent, State.toHandOver, Upc.handsOver]

/-- A run of micro-steps hands over the byte it no longer has to hand over. -/
theorem runMicro_txStream {refused : Policy → Bool} (hd : refused .discard = true) {upto : Option Label} {k : Nat}
    {s t : State} (ha : Armed s) (hs : Coherent s) (h : runMicro upto k s = .next t) :
    t.txStream ++ t.toHandOver refused = s.txStream ++ s.toHandOver refused := by
  refine (runMicro_keeps (P := fun x => Coherent x ∧
    x.txStream ++ x.toHandOver refused = s.txStream ++ s.toHandOver refused) ?_ ha ⟨hs, rfl⟩ h).1.2
  rintro x y hax ⟨hx, hsame⟩ hm
  rw [← hsame, microStep_txStream hax hx hm, List.append_assoc, microStep_toHandOver hd hax hx hm]
  exact ⟨microStep_coherent hax hx hm, rfl⟩

/-! ### The transmit stream: whole operations -/

/-- A run with no label to stop at stops where its operation has completed or waits. -/
theorem runMicro_none_stops {k : Nat} {s t : State} (hk : s.remaining < k) (h : runMicro none k s = .next t) :
    t.upc = .idle ∨ ∃ x, microStep x = .waiting t := by
  induction k generalizing s with
  | zero => omega
  | succ k ih =>
    rw [runMicro] at h
    cases hm : microStep s with
    | onward s' =>
      have hlt := (microStep_onward hm).1
      exact ih (s := s') (by omega) (by simpa [hm] using h)
    | waiting s' =>
      obtain rfl : s' = t := by simpa [hm] using h
      exact .inr ⟨s, hm⟩
    | done s' =>
      obtain rfl : s' = t := by simpa [hm] using h
      exact .inl (microStep_done hm)
    | fault r => simp [hm] at h

/-- Completed, or waiting on a full instance that refuses it, an operation has no byte to hand over. -/
theorem toHandOver_of_stopped {t : State} (ht : WriterCoherent t)
    (h : t.upc = .idle ∨ ∃ s, microStep s = .waiting t) : t.toHandOver (fun _ => true) = [] := by
  obtain hu | ⟨s, hm⟩ := h
  · rw [State.toHandOver, hu]
  · obtain ⟨d, h, tl, r, seen, -, hf, -, rfl⟩ | ⟨h, -, -, -, rfl⟩ := microStep_waiting hm
    · obtain rfl : h = s.tx.head := by simpa [WriterCoherent] using ht
      simp [State.toHandOver, hf]
    · rfl

/-- The byte a WRITE accepts is the one it hands over at the latest where it waits. -/
theorem acceptedByte_of_startOf {i : Instr} {u : Upc} (hu : startOf i = some u) (s : State) :
    acceptedByte i s = (goTo u s).toHandOver fun _ => true := by
  cases i <;> simp only [startOf, Option.some.injEq, reduceCtorEq] at hu <;> subst hu <;>
    simp [acceptedByte, State.toHandOver]

/-- The transmit handler moves the oldest byte queued to the end of the bytes sent (R94). -/
theorem transmitHandler_txStream {f : Bool} {s t : State} (ha : Armed s) (hs : Coherent s)
    (h : transmitHandler f s = .next t) : t.txStream = s.txStream := by
  obtain ⟨-, rfl⟩ | ⟨-, -, -, rfl⟩ | ⟨-, -, hne, -, rfl⟩ := transmitHandler_next h
  · rfl
  · rfl
  · obtain ⟨hh, ht⟩ := hs.offsets ha.2 .tx
    have hpop := queued_pop (armed_cap ha .tx) hh ht hne
    rw [State.txStream, State.txStream, hpop, sent_emit, sentByte, List.append_assoc]
    rfl

theorem recoverReceive_sent (s : State) : (recoverReceive s).sent = s.sent := by
  cases hp : s.cfg.ctsPresent <;> cases hg : s.cfg.hwgen <;>
    simp [recoverReceive, openGate, flush, State.sent, sentByte, hp, hg]

/-- The receive handler hands nothing to the UART (R101). -/
theorem receiveHandler_sent {e f : Bool} {d : Byte} {s t : State} (h : receiveHandler e f d s = .next t) :
    t.sent = s.sent := by
  obtain ⟨-, rfl⟩ | ⟨-, -, rfl⟩ | ⟨-, -, -, rfl⟩ := receiveHandler_next h
  · rfl
  · exact recoverReceive_sent s
  · simp only [State.sent, closeGate_trace, commitOrDrop_trace, invokeCallback_trace, receivedAtHead]
    split_ifs <;> simp [sentByte]

/-- An operation adds to the stream the byte a WRITE accepts (R74). -/
theorem exec_txStream {i : Instr} {s t : State} (hs : Coherent s) (hi : i ≠ .init) (h : exec i s = .next t) :
    t.txStream = s.txStream ++ acceptedByte i s := by
  obtain ⟨rfl, -⟩ | ⟨u, hu, hr, hrun⟩ | ⟨f, rfl, ha, ht⟩ | ⟨e, f, d, rfl, -, ht⟩ := exec_next h
  · exact absurd rfl hi
  · have hstart := start_coherent hr (isStart_of_startOf hu) hs
    have hstream := runMicro_txStream (refused := fun _ => true) rfl (s := goTo u s) hr.1 hstart hrun
    have hsame : (goTo u s).txStream = s.txStream := rfl
    obtain ⟨ht, hat⟩ := runMicro_keeps (fun _ _ => microStep_coherent) (s := goTo u s) hr.1 hstart hrun
    have hnone := toHandOver_of_stopped (ht.writer hat.2) (runMicro_none_stops (goTo u s).remaining_lt hrun)
    rwa [hnone, List.append_nil, hsame, ← acceptedByte_of_startOf hu] at hstream
  · simp [transmitHandler_txStream ha hs ht, acceptedByte]
  · obtain ⟨hc, htx, -⟩ := receiveHandler_frame ht
    simp [State.txStream, receiveHandler_sent ht, queued_of_fifo_eq (x := .tx) hc htx, acceptedByte]

/-- Settles O52: one micro-step moves its byte from what is to be handed over into the stream; a run keeps the two
together, and has nothing to hand over where it stops. -/
theorem transmitStreamIsConserved : Obligations.TransmitStreamIsConserved := by
  refine ⟨fun i s t hs hi h => exec_txStream hs hi h, fun s t hs h => ?step, fun upto s t hs h => ?resume,
    fun i l u s t hs hu h => ?split⟩
  case step =>
    obtain ⟨ha, hm⟩ := advance_next h
    exact microStep_txStream ha hs hm
  case resume =>
    obtain ⟨ha, hrun⟩ := resumeUpto_next h
    rw [State.owed, State.owed, owedAt_eq_toHandOver, owedAt_eq_toHandOver]
    exact runMicro_txStream rfl ha hs hrun
  case split =>
    obtain ⟨u', hu', hr, hrun⟩ := execUpto_next h
    obtain rfl : u' = u := Option.some.inj (hu'.symm.trans hu)
    rw [State.owed, owedAt_eq_toHandOver, owedAt_eq_toHandOver]
    exact runMicro_txStream (s := goTo u' s) rfl hr.1 (start_coherent hr (isStart_of_startOf hu) hs) hrun

/-! ### The receive queue: the handler -/

/-- A commit puts the byte of the slot at the head at the end of the queue, and a full instance drops it (R106). -/
theorem commitOrDrop_queued {s : State} (hn : 2 ≤ s.cap .rx) (hh : s.rx.head < s.cap .rx) (ht : s.rx.tail < s.cap .rx)
    (d : Byte) : (commitOrDrop d s).queued .rx =
      s.queued .rx ++ if s.full .rx = false then [s.slotByte .rx s.rx.head] else [] := by
  unfold commitOrDrop
  cases hf : s.full .rx
  · exact queued_commit (x := .rx) hn hh ht (by simpa using hf)
  · exact (queued_of_fifo_eq rfl rfl).trans (List.append_nil _).symm

/-- The receive handler puts at the end of the queue the byte it commits (R104). -/
theorem receiveHandler_queued {e f : Bool} {d : Byte} {s t : State} (ha : Armed s) (hs : Coherent s)
    (hc : classify e f ≠ .hardwareError) (h : receiveHandler e f d s = .next t) :
    t.queued .rx = s.queued .rx ++ committedByte (.rxisr e f d) s := by
  obtain ⟨hh, ht⟩ := hs.offsets ha.2 .rx
  obtain ⟨rfl, rfl⟩ | ⟨rfl, rfl, -⟩ | ⟨rfl, rfl, -, rfl⟩ := receiveHandler_next h
  · simp [committedByte, classify]
  · exact absurd rfl hc
  · have hclose (x : State) : (closeGate x).queued .rx = x.queued .rx := queued_of_fifo_eq (by simp) (by simp)
    have hstore : (invokeCallback d (receivedAtHead d s)).queued .rx = s.queued .rx :=
      queued_store_head (d := d) hh ht (by simp [receivedAtHead]) (by simp [receivedAtHead])
    have hcommit := commitOrDrop_queued (s := invokeCallback d (receivedAtHead d s))
      (by simpa [receivedAtHead] using armed_cap ha .rx) (by simpa [receivedAtHead] using hh)
      (by simpa [receivedAtHead] using ht) d
    rw [hclose, hcommit, hstore]
    simp [committedByte, classify, receivedAtHead, State.slotByte]

/-! ### The receive queue: the reads -/

/-- The opening step (R85) after the pop of the tail `t`, with no handler between its micro-steps T4 to T6. -/
def openingStep (t : Nat) (s : State) : State :=
  if s.cfg.ctsPresent && reopens s (openingFree s t s.rx.head) s.gate then writeGate .go s else s

@[simp] theorem openingStep_cfg (t : Nat) (s : State) : (openingStep t s).cfg = s.cfg := by
  unfold openingStep
  split <;> rfl

@[simp] theorem openingStep_rx (t : Nat) (s : State) : (openingStep t s).rx = s.rx := by
  unfold openingStep
  split <;> rfl

/-- From T4 on, where there is a gate, a read performs the opening step and completes with its byte (R97). -/
theorem runMicro_read_opening (op : ReadOp) (h t : Nat) (b : Byte) {s : State} (hc : s.cfg.ctsPresent = true)
    (k : Nat) : runMicro none (k + 3) (goTo (.t4 op h t b) s) =
      .next (complete (some (readResult b true)) (openingStep t s)) := by
  have h4 : microStep (goTo (.t4 op h t b) s) =
      .onward (goTo (.t5 op h t b s.rx.head (openingFree s t s.rx.head)) s) := rfl
  rw [runMicro_onward h4 (by simp [Upc.label]), openingStep, hc, Bool.true_and]
  cases hr : reopens s (openingFree s t s.rx.head) s.gate with
  | true =>
    have h5 : microStep (goTo (.t5 op h t b s.rx.head (openingFree s t s.rx.head)) s) =
        .onward (goTo (.t6 op h t b s.rx.head (openingFree s t s.rx.head) s.gate) s) := if_pos hr
    rw [runMicro_onward h5 (by simp [Upc.label]), runMicro_done rfl]
    rfl
  | false =>
    have h5 : microStep (goTo (.t5 op h t b s.rx.head (openingFree s t s.rx.head)) s) =
        .done (complete (some (readResult b true)) s) := if_neg (ne_true_of_eq_false hr)
    rw [runMicro_done h5]
    rfl

/-- From T3 on a read pops, and completes with the byte it has latched (R77, R96). -/
theorem runMicro_read_pop (op : ReadOp) (h t : Nat) (b : Byte) (s : State) (k : Nat) :
    runMicro none (k + 4) (goTo (.t3 op h t b) s) =
      .next (complete (some (readResult b true)) (openingStep t (writeTail .rx (s.next .rx t) s))) := by
  cases hc : s.cfg.ctsPresent with
  | true =>
    have h3 : microStep (goTo (.t3 op h t b) s) = .onward (goTo (.t4 op h t b) (writeTail .rx (s.next .rx t) s)) :=
      if_pos hc
    rw [runMicro_onward h3 (by simp [Upc.label])]
    exact runMicro_read_opening op h t b (by exact hc) k
  | false =>
    have h3 : microStep (goTo (.t3 op h t b) s) =
        .done (complete (some (readResult b true)) (writeTail .rx (s.next .rx t) s)) := if_neg (by simp [hc])
    rw [runMicro_done h3, openingStep, writeTail_rx_cfg, hc]
    rfl

theorem microT2_of_lt (op : ReadOp) (h : Nat) {t : Nat} {s : State} (ht : t < s.cfg.nRx) :
    microT2 op h t s = .onward (goTo (.t3 op h t (s.slotByte .rx t)) s) := by
  rw [microT2, memRead_of_lt (x := .rx) ht]

/-- A read on an instance that is not empty comes to T3 with the oldest byte latched (R96, R99). -/
theorem runMicro_read_found (op : ReadOp) {s : State} (hne : s.rx.head ≠ s.rx.tail) (hlt : s.rx.tail < s.cfg.nRx) :
    runMicro none microBound (goTo (.t0 op) s) =
      .next (complete (some (readResult (s.slotByte .rx s.rx.tail) true))
        (openingStep s.rx.tail (writeTail .rx (s.next .rx s.rx.tail) s))) := by
  have h0 : microStep (goTo (.t0 op) s) = .onward (goTo (.t1 op s.rx.head) s) := rfl
  have h1 : microStep (goTo (.t1 op s.rx.head) s) = .onward (goTo (.t2 op s.rx.head s.rx.tail) s) :=
    if_neg (by simpa using hne)
  have h2 : microStep (goTo (.t2 op s.rx.head s.rx.tail) s) =
      .onward (goTo (.t3 op s.rx.head s.rx.tail (s.slotByte .rx s.rx.tail)) s) := microT2_of_lt op _ hlt
  rw [microBound, runMicro_onward h0 (by simp [Upc.label]), runMicro_onward h1 (by simp [Upc.label]),
    runMicro_onward h2 (by simp [Upc.label]), runMicro_read_pop]

theorem ready_of_exec {i : Instr} {u : Upc} {s t : State} (hu : startOf i = some u) (h : exec i s = .next t) :
    Ready s := by
  rw [exec_of_startOf hu] at h
  exact (issueUpto_next h).1

/-- TRYREAD finds nothing on an empty instance (R98). -/
theorem exec_tryread_empty {s : State} (hr : Ready s) (he : s.rx.head = s.rx.tail) :
    exec .tryread s = .next (complete (some (readResult (drawByte s).1 false)) (drawByte s).2) := by
  have h0 : microStep (goTo (.t0 .tryread) s) = .onward (goTo (.t1 .tryread s.rx.head) s) := rfl
  have h1 : microStep (goTo (.t1 .tryread s.rx.head) s) = notFound .tryread (goTo (.t1 .tryread s.rx.head) s) :=
    if_pos (by simpa using he)
  rw [exec_of_ready rfl hr, microBound, runMicro_onward h0 (by simp [Upc.label]), runMicro_done h1]
  rfl

/-- READB waits at T0 on an empty instance (R99). -/
theorem exec_readb_empty {s : State} (hr : Ready s) (he : s.rx.head = s.rx.tail) :
    exec .readb s = .next (goTo (.t0 .readb) s) := by
  have h0 : microStep (goTo (.t0 .readb) s) = .onward (goTo (.t1 .readb s.rx.head) s) := rfl
  rw [exec_of_ready rfl hr, microBound, runMicro_onward h0 (by simp [Upc.label]),
    runMicro_waiting (microStep_readb_empty he) (by simp [Upc.label])]

/-- AVAIL returns whether the instance is not empty (R100). -/
theorem exec_avail {s : State} (hr : Ready s) :
    exec .avail s = .next (complete (some (boolResult (!s.empty .rx))) s) := by
  have h0 : microStep (goTo .a0 s) = .onward (goTo (.a1 s.rx.head) s) := rfl
  rw [exec_of_ready rfl hr, microBound, runMicro_onward h0 (by simp [Upc.label]), runMicro_done rfl]
  rfl

/-- A read finds a byte exactly when one is queued: the first of the queue, which it takes off (R98). -/
theorem exec_read_found {i : Instr} {op : ReadOp} {s t : State} (hs : Coherent s) (hu : startOf i = some (.t0 op))
    (h : exec i s = .next t) (hne : s.rx.head ≠ s.rx.tail) :
    ∃ b, s.queued .rx = b :: t.queued .rx ∧ t.result = some (readResult b true) := by
  have hr := ready_of_exec hu h
  obtain ⟨hh, ht⟩ := hs.offsets hr.1.2 .rx
  rw [exec_of_ready hu hr, runMicro_read_found op hne ht, Host.Outcome.next.injEq] at h
  subst h
  refine ⟨_, (queued_pop (armed_cap hr.1 .rx) hh ht hne).trans (congrArg _ ?_), rfl⟩
  exact (queued_of_fifo_eq (by simp) (by simp)).symm

/-- A queue is empty when its instance is (R67). -/
theorem queued_isEmpty {s : State} (ha : Armed s) (hs : Coherent s) (x : Side) :
    (s.queued x).isEmpty = s.empty x := by
  obtain ⟨hh, ht⟩ := hs.offsets ha.2 x
  by_cases he : (s.fifo x).head = (s.fifo x).tail
  · simp [queued_of_empty he, State.empty, he]
  · simp [queued_pop (armed_cap ha x) hh ht he, State.empty, isEmpty, he]

/-- A read of an empty queue finds nothing: TRYREAD says so, and READB waits (R98, R99). -/
theorem exec_read_empty {i : Instr} {op : ReadOp} {s t : State} (hu : startOf i = some (.t0 op))
    (h : exec i s = .next t) (he : s.rx.head = s.rx.tail) :
    s.queued .rx = [] ∧ t.queued .rx = [] ∧
      (i = .tryread → ∃ r, t.result = some r ∧ r.flag = false) ∧ (i = .readb → t.upc ≠ .idle) := by
  have hr := ready_of_exec hu h
  have hempty (x : State) (hx : x.rx = s.rx) : x.queued .rx = [] := queued_of_empty (by simpa [hx] using he)
  cases i <;> simp only [startOf, Option.some.injEq, reduceCtorEq] at hu
  case tryread =>
    rw [exec_tryread_empty hr he, Host.Outcome.next.injEq] at h
    subst h
    exact ⟨hempty s rfl, hempty _ rfl, fun _ => ⟨_, rfl, rfl⟩, nofun⟩
  case readb =>
    rw [exec_readb_empty hr he, Host.Outcome.next.injEq] at h
    subst h
    exact ⟨hempty s rfl, hempty _ rfl, nofun, fun _ => by simp⟩

theorem exec_read_queue {i : Instr} {op : ReadOp} {s t : State} (hs : Coherent s) (hu : startOf i = some (.t0 op))
    (h : exec i s = .next t) :
    (s.queued .rx = [] ∧ t.queued .rx = [] ∧
      (i = .tryread → ∃ r, t.result = some r ∧ r.flag = false) ∧ (i = .readb → t.upc ≠ .idle)) ∨
    ∃ b, s.queued .rx = b :: t.queued .rx ∧ t.result = some (readResult b true) := by
  by_cases he : s.rx.head = s.rx.tail
  · exact .inl (exec_read_empty hu h he)
  · exact .inr (exec_read_found hs hu h he)

/-- What an RXISR that answers did. -/
theorem exec_rxisr_next {e f : Bool} {d : Byte} {s t : State} (h : exec (.rxisr e f d) s = .next t) :
    Armed s ∧ receiveHandler e f d s = .next t := by
  obtain ⟨hi, -⟩ | ⟨u, hu, -⟩ | ⟨f, hi, -⟩ | ⟨e, f, d, hi, ha, ht⟩ := exec_next h
  · cases hi
  · cases hu
  · cases hi
  · cases hi
    exact ⟨ha, ht⟩

/-- Settles O53: what each operation of the receive path does to the queue. -/
theorem receiveQueueIsFifo : Obligations.ReceiveQueueIsFifo := by
  intro i s t hs h
  refine ⟨?handler, ?error, ?read, ?avail⟩
  case handler =>
    rintro e f d rfl hc
    obtain ⟨ha, ht⟩ := exec_rxisr_next h
    exact receiveHandler_queued ha hs hc ht
  case error =>
    rintro d rfl
    obtain ⟨-, ht⟩ := exec_rxisr_next h
    rw [receiveHandler_of_error, Host.Outcome.next.injEq] at ht
    exact queued_of_empty (by simp [← ht])
  case read =>
    rintro (rfl | rfl)
    · exact exec_read_queue hs rfl h
    · exact exec_read_queue hs rfl h
  case avail =>
    rintro rfl
    have hr := ready_of_exec rfl h
    rw [exec_avail hr, Host.Outcome.next.injEq] at h
    exact ⟨0, by rw [← h, queued_isEmpty hr.1 hs]; rfl⟩

end Sys2Proof.Machine
end

section
/-! PROOF. The statement of 41_flow_control_gate.md: an insert moves the gate toward Stop only and a remove toward Go
only, and each leaves it as its comparison of the free space with the threshold says (R82, R84, R85). -/

namespace Sys2Proof.Machine

/-! ### The closing step -/

theorem closes_iff (s : State) : closes s = true ↔ s.cfg.ctsPresent = true ∧ s.freeSpace .rx < s.cfg.t := by
  simp [closes, below]

/-- The closing step leaves the gate or closes it, and closes it below the threshold (R84). -/
theorem closeGate_moves (s : State) : ((closeGate s).gate = s.gate ∨ (closeGate s).gate = .stop) ∧
    (s.cfg.ctsPresent = true → s.freeSpace .rx < s.cfg.t → (closeGate s).gate = .stop) := by
  rw [closeGate_gate]
  refine ⟨?_, fun hc hf => if_pos ((closes_iff s).mpr ⟨hc, hf⟩)⟩
  split
  · exact .inr rfl
  · exact .inl rfl

/-- What an RXISR with data did: its last step is the closing step, and nothing before it wrote the gate (R104, R107). -/
theorem exec_rxisr_data_next {d : Byte} {s t : State} (h : exec (.rxisr false true d) s = .next t) :
    ∃ u, t = closeGate u ∧ u.gate = s.gate ∧ u.cfg = s.cfg := by
  obtain ⟨hf, -⟩ | ⟨he, -⟩ | ⟨-, -, -, rfl⟩ := receiveHandler_next (exec_rxisr_next h).2
  · cases hf
  · cases he
  · exact ⟨_, rfl, by simp [receivedAtHead], by simp [receivedAtHead]⟩

/-! ### The opening step -/

/-- After a pop of the tail `t` the opening step leaves the gate or opens it, and opens it where the free space has come
to the threshold (R85). -/
theorem openingStep_moves {t : Nat} {s : State} (ht : s.rx.tail = s.next .rx t) :
    ((openingStep t s).gate = s.gate ∨ (openingStep t s).gate = .go) ∧
      (s.cfg.ctsPresent = true → s.cfg.t ≤ s.freeSpace .rx → (openingStep t s).gate = .go) := by
  have hfree : openingFree s t s.rx.head = s.freeSpace .rx := by rw [openingFree, ← ht]; rfl
  rw [openingStep, hfree]
  split
  · exact ⟨.inr rfl, fun _ _ => rfl⟩
  · next hn =>
    refine ⟨.inl rfl, fun hc hf => ?_⟩
    cases hg : s.gate with
    | go => rfl
    | stop => exact absurd (by simpa [hc, hg, reopens] using hf) hn

/-- A read that answers on an instance that is not empty has read a slot that exists (R34). -/
theorem tail_lt_of_runMicro_read {op : ReadOp} {s t : State} (hne : s.rx.head ≠ s.rx.tail)
    (h : runMicro none microBound (goTo (.t0 op) s) = .next t) : s.rx.tail < s.cfg.nRx := by
  by_contra hlt
  have h0 : microStep (goTo (.t0 op) s) = .onward (goTo (.t1 op s.rx.head) s) := rfl
  have h1 : microStep (goTo (.t1 op s.rx.head) s) = .onward (goTo (.t2 op s.rx.head s.rx.tail) s) :=
    if_neg (by simpa using hne)
  have h2 : microStep (goTo (.t2 op s.rx.head s.rx.tail) s) = .fault .noSuchSlot := by
    simp [microStep, microT2, memRead, hlt]
  rw [microBound, runMicro_onward h0 (by simp [Upc.label]), runMicro_onward h1 (by simp [Upc.label])] at h
  simp [runMicro, h2] at h

/-- What a read that answers did: it left the tail and the gate, or it popped, performed the opening step and completed
(R96, R99). -/
theorem exec_read_next {i : Instr} {op : ReadOp} {s t : State} (hu : startOf i = some (.t0 op))
    (h : exec i s = .next t) :
    (t.rx.tail = s.rx.tail ∧ t.gate = s.gate) ∨
    t = complete (some (readResult (s.slotByte .rx s.rx.tail) true))
      (openingStep s.rx.tail (writeTail .rx (s.next .rx s.rx.tail) s)) := by
  have hr := ready_of_exec hu h
  by_cases he : s.rx.head = s.rx.tail
  · cases i <;> simp only [startOf, Option.some.injEq, reduceCtorEq] at hu
    case tryread =>
      rw [exec_tryread_empty hr he, Host.Outcome.next.injEq] at h
      subst h
      exact .inl ⟨rfl, rfl⟩
    case readb =>
      rw [exec_readb_empty hr he, Host.Outcome.next.injEq] at h
      subst h
      exact .inl ⟨rfl, rfl⟩
  · rw [exec_of_ready hu hr] at h
    rw [runMicro_read_found op he (tail_lt_of_runMicro_read he h), Host.Outcome.next.injEq] at h
    exact .inr h.symm

/-- A read leaves the gate or opens it, and opens it where it popped and the free space has come to the threshold. -/
theorem exec_read_gate {i : Instr} {op : ReadOp} {s t : State} (hu : startOf i = some (.t0 op))
    (h : exec i s = .next t) : (t.gate = s.gate ∨ t.gate = .go) ∧
      (s.cfg.ctsPresent = true → t.rx.tail ≠ s.rx.tail → t.cfg.t ≤ t.freeSpace .rx → t.gate = .go) := by
  obtain ⟨htail, hgate⟩ | rfl := exec_read_next hu h
  · exact ⟨.inl hgate, fun _ hne => absurd htail hne⟩
  · obtain ⟨hmove, hopen⟩ := openingStep_moves (t := s.rx.tail) (s := writeTail .rx (s.next .rx s.rx.tail) s) rfl
    exact ⟨hmove, fun hc _ hf => hopen hc (by simpa using hf)⟩

/-- Settles O37: the closing step is the last of an insert, the opening step the last of a remove. -/
theorem gateMovesOneWayAtEachEnd : Obligations.GateMovesOneWayAtEachEnd := by
  refine ⟨fun s d t h => ?insert, fun i s t hi h => ?remove⟩
  case insert =>
    obtain ⟨u, rfl, hgate, hcfg⟩ := exec_rxisr_data_next h
    rw [← hgate, ← hcfg]
    simpa using closeGate_moves u
  case remove =>
    obtain rfl | rfl := hi
    · exact exec_read_gate rfl h
    · exact exec_read_gate rfl h

end Sys2Proof.Machine
end

section
/-! PROOF. The statements of 42_transmit_path.md: the transmit interrupt (R95), WRITE label by label and whole (R86 to R90),
the queries of the transmit instance (R92, R93), the transmit handler (R94), and the release of a WRITE that waits on a
full instance (R88, R129). -/

namespace Sys2Proof.Machine

/-! ### The transmit interrupt of an instance that is not empty -/

/-- A commit of the head leads to W7, which enables the interrupt; no other micro-step fills the instance (R90, R95). -/
theorem microStep_transmitInterruptEnabled {s t : State} (hs : TransmitInterruptEnabled s)
    (h : (microStep s).state? = some t) : TransmitInterruptEnabled t := by
  cases microStep_cases h
  case w7 => exact fun _ _ _ => rfl
  case w3 | w4Discard | w6 => exact fun _ hl => absurd rfl hl
  all_goals simp_all [TransmitInterruptEnabled, Upc.label]

/-- The transmit handler disables the interrupt on an empty instance alone (R94). -/
theorem transmitHandler_transmitInterruptEnabled {f : Bool} {s t : State} (hs : TransmitInterruptEnabled s)
    (h : transmitHandler f s = .next t) : TransmitInterruptEnabled t := by
  obtain ⟨-, rfl⟩ | ⟨-, -, he, rfl⟩ | ⟨-, htx, -, -, rfl⟩ := transmitHandler_next h
  · exact hs
  · simp [TransmitInterruptEnabled, he]
  · exact fun _ _ _ => htx

theorem kept_transmitInterruptEnabled : Kept TransmitInterruptEnabled where
  input _ _ hs := hs
  configure _ _ hi _ := by simp [TransmitInterruptEnabled, hi]
  init _ _ _ _ := by simp [TransmitInterruptEnabled]
  start s u hr _ hs := fun hi _ he => hs hi (by simp [hr.2, Upc.label]) he
  micro _ _ _ hs h := microStep_transmitInterruptEnabled hs h
  transmit _ _ _ _ hs h := transmitHandler_transmitInterruptEnabled hs h
  receive _ _ _ _ _ _ hs h := by
    obtain ⟨-, htx, htxie, -, hu, hi⟩ := receiveHandler_frame h
    rwa [TransmitInterruptEnabled, hi, hu, htxie, State.empty, fifo_tx, htx]

/-- Settles O58: that the interrupt of an instance that is not empty is enabled, but at W7, is a kept property. -/
theorem stepKeepsTransmitInterruptEnabled : Obligations.StepKeepsTransmitInterruptEnabled :=
  fun _ _ => kept_transmitInterruptEnabled.step

/-! ### One micro-step of mainline -/

/-- The state a micro-step leaves is what an armed Port advances to. -/
theorem advance_of_microStep {s t : State} (ha : Armed s) (h : (microStep s).state? = some t) :
    advance s = .next t := by
  rw [advance, blocked_of_armed ha]
  cases hm : microStep s <;> simp_all

/-- An operation split at its first label stops after one micro-step (R62). -/
theorem execUpto_first {i : Instr} {l : Label} {u : Upc} {s t : State} (hu : startOf i = some u)
    (hl : u.label = some l) (hi : i.splitsAt l = true) (hr : Ready s) (hm : microStep (goTo u s) = .onward t) :
    execUpto i l s = .next t := by
  have hrun : runMicro (some l) microBound (goTo u s) = .next t := by simp [microBound, runMicro, hm, hl]
  rw [execUpto, hu]
  simp only [hi, if_true, issueUpto, blockedMainline_of_ready hr, hrun]

/-- Where no operation is in progress, completing one changes the result held and nothing else. -/
theorem complete_of_idle {s : State} (hu : s.upc = .idle) (r : Option Result) :
    complete r s = { s with result := r } := by
  rw [complete, ← hu]

/-! ### The micro-steps of WRITE -/

section
variable {s : State} {d : Byte} {h t : Nat} {r : Option Bool} {seen : Option (Nat × Nat)}

theorem noteOverflowOnce_eq (d : Byte) (seen : Option (Nat × Nat)) (s : State) : noteOverflowOnce d seen s =
    { s with trace := s.trace ++ if seen = none then [.note (.transmitOverflow d)] else [] } := by
  cases seen <;> simp [noteOverflowOnce, raise, emit]

theorem microStep_w1 {f : Bool} (hu : s.upc = .w1 d f h) : microStep s =
    .onward (goTo (if h = s.tx.tail then .w2 d f h s.tx.tail else .w4 d h s.tx.tail none none) s) := by
  rw [microStep, hu]
  by_cases he : h = s.tx.tail <;> simp [microW1, isEmpty, he]

theorem microStep_w2 {f : Bool} (hu : s.upc = .w2 d f h t) : microStep s =
    .onward (goTo (if f then .w3 d h t true else .w4 d h t (some false) none) s) := by
  rw [microStep, hu]
  cases f <;> rfl

theorem microStep_w4_room (hu : s.upc = .w4 d h t r seen) (hf : nextOffset s.cfg.nTx h ≠ s.tx.tail) :
    microStep s = .onward (goTo (.w5 d h t r s.tx.tail (nextOffset s.cfg.nTx h)) s) := by
  rw [microStep, hu]
  exact if_neg (by simpa using hf)

theorem microStep_w4_discard (hu : s.upc = .w4 d h t r seen) (hf : nextOffset s.cfg.nTx h = s.tx.tail)
    (hp : s.cfg.policy = .discard) : microStep s =
      .onward (goTo (.w7 d h t r (some (s.tx.tail, nextOffset s.cfg.nTx h)) sentinel) (noteOverflowOnce d seen s)) := by
  have hfull : isFull s.cfg.nTx h s.tx.tail = true := by simpa using hf
  simp only [microStep, hu, microW4, hfull, hp, if_true, next_tx]

theorem microStep_w4_block (hu : s.upc = .w4 d h t r seen) (hf : nextOffset s.cfg.nTx h = s.tx.tail)
    (hp : s.cfg.policy = .block) : microStep s =
      .waiting (goTo (.w4 d h t r (some (s.tx.tail, nextOffset s.cfg.nTx h))) (noteOverflowOnce d seen s)) := by
  have hfull : isFull s.cfg.nTx h s.tx.tail = true := by simpa using hf
  simp only [microStep, hu, microW4, hfull, hp, if_true, next_tx]

theorem microStep_w5 {t2 n : Nat} (hu : s.upc = .w5 d h t r t2 n) (hh : h < s.cfg.nTx) :
    microStep s = .onward (goTo (.w6 d h t r t2 n) (s.setFifo .tx (s.tx.store h d))) := by
  rw [microStep, hu]
  simp only [microW5, memWrite_of_lt (x := .tx) d hh, fifo_tx]

/-- What W4 comes to on a full instance, under either policy (R88, R89). -/
theorem advance_w4_full (ha : Armed s) (hu : s.upc = .w4 d h t r seen) (hf : nextOffset s.cfg.nTx h = s.tx.tail) :
    advance s = .next { s with
      trace := s.trace ++ (if seen = none then [.note (.transmitOverflow d)] else [])
      upc := if s.cfg.policy = .discard then .w7 d h t r (some (s.tx.tail, nextOffset s.cfg.nTx h)) sentinel
        else .w4 d h t r (some (s.tx.tail, nextOffset s.cfg.nTx h)) } := by
  refine advance_of_microStep ha ?_
  cases hp : s.cfg.policy with
  | block =>
    rw [microStep_w4_block hu hf hp, noteOverflowOnce_eq]
    rfl
  | discard =>
    rw [microStep_w4_discard hu hf hp, noteOverflowOnce_eq]
    rfl

end

/-- Settles O18: the micro-step of each label, performed by an armed Port. -/
theorem writeMicroProgram : Obligations.WriteMicroProgram := by
  refine ⟨fun s f d hr => execUpto_first rfl rfl rfl hr rfl, fun s ha =>
    ⟨fun d f hu => ?w0, fun d f h hu => ?w1, fun d f h t hu => ?w2, fun d h t r hu => ?w3,
      fun d h t r seen hu hf => ?w4, fun d h t r seen hu hf => advance_w4_full ha hu hf,
      fun d h t r t2 n hu hh => ?w5, fun d h t r t2 n hu => ?w6, fun d h t r seen ret hu => ?w7⟩⟩
  all_goals refine advance_of_microStep ha ?_
  case w1 => rw [microStep_w1 hu]; rfl
  case w2 => rw [microStep_w2 hu]; rfl
  case w4 => rw [microStep_w4_room hu hf]; rfl
  case w5 => rw [microStep_w5 hu hh]; rfl
  all_goals rw [microStep, hu]; rfl

/-! ### WRITE with no handler between its micro-steps -/

/-- A WRITE completes at W7 with the byte `ret` (R90). -/
def finishWrite (ret : Byte) (s : State) : State := complete (some (byteResult ret)) (writeTxie true s)

/-- The byte is stored at the latched head and the head committed: W5 and W6 (R71). -/
def storeAndCommit (h : Nat) (d : Byte) (s : State) : State :=
  writeHead .tx (s.next .tx h) (s.setFifo .tx (s.tx.store h d))

@[simp] theorem slotByte_finishWrite (ret : Byte) (s : State) (x : Side) (o : Nat) :
    (finishWrite ret s).slotByte x o = s.slotByte x o := by simp [finishWrite]

@[simp] theorem slotByte_storeAndCommit (h : Nat) (d : Byte) (s : State) (o : Nat) :
    (storeAndCommit h d s).slotByte .tx o = if h = o then d else s.slotByte .tx o := by simp [storeAndCommit]

theorem finishWrite_of_idle {s : State} (hu : s.upc = .idle) (ret : Byte) :
    finishWrite ret s = { s with txie := true, result := some (byteResult ret) } :=
  complete_of_idle (s := writeTxie true s) hu _

section
variable {s : State} {f : Bool} {d : Byte} {h t : Nat} {r : Option Bool} {seen : Option (Nat × Nat)}

/-- On an empty instance a WRITE comes to W2 (R86). -/
theorem runMicro_write_empty (he : s.tx.head = s.tx.tail) : runMicro none microBound (goTo (.w0 d f) s) =
    runMicro none microBound (goTo (.w2 d f s.tx.head s.tx.tail) s) := by
  have h0 : microStep (goTo (.w0 d f) s) = .onward (goTo (.w1 d f s.tx.head) s) := rfl
  have h1 : microStep (goTo (.w1 d f s.tx.head) s) = .onward (goTo (.w2 d f s.tx.head s.tx.tail) s) :=
    if_pos (by simpa using he)
  rw [runMicro_bound_onward h0 (by simp [Upc.label]), runMicro_bound_onward h1 (by simp [Upc.label])]

/-- The fast path (R87). -/
theorem runMicro_write_fast (he : s.tx.head = s.tx.tail) : runMicro none microBound (goTo (.w0 d true) s) =
    .next (finishWrite d (emit (.txregWrite d) s)) := by
  have h2 : microStep (goTo (.w2 d true s.tx.head s.tx.tail) s) =
      .onward (goTo (.w3 d s.tx.head s.tx.tail true) s) := rfl
  have h3 : microStep (goTo (.w3 d s.tx.head s.tx.tail true) s) =
      .onward (goTo (.w7 d s.tx.head s.tx.tail (some true) none d) (emit (.txregWrite d) s)) := rfl
  rw [runMicro_write_empty he, runMicro_bound_onward h2 (by simp [Upc.label]),
    runMicro_bound_onward h3 (by simp [Upc.label])]
  exact runMicro_done rfl none 8

/-- Off the fast path a WRITE comes to its first visit of W4; `r` is latched where the instance is empty (R86). -/
theorem runMicro_write_slow (hq : ¬ (s.tx.head = s.tx.tail ∧ f = true)) :
    runMicro none microBound (goTo (.w0 d f) s) = runMicro none microBound
      (goTo (.w4 d s.tx.head s.tx.tail (if s.tx.head = s.tx.tail then some false else none) none) s) := by
  by_cases he : s.tx.head = s.tx.tail
  · obtain rfl : f = false := by simpa [he] using hq
    have h2 : microStep (goTo (.w2 d false s.tx.head s.tx.tail) s) =
        .onward (goTo (.w4 d s.tx.head s.tx.tail (some false) none) s) := rfl
    rw [runMicro_write_empty he, runMicro_bound_onward h2 (by simp [Upc.label]), if_pos he]
  · rw [if_neg he]
    exact (runMicro_write_queued f d he 7).trans
      (runMicro_enough (by simp [State.remaining]) (State.remaining_lt _))

/-- At W4 with room a WRITE stores its byte, commits it and completes (R86, R88). -/
theorem runMicro_w4_room (hu : s.upc = .w4 d h t r seen) (hh : h < s.cfg.nTx)
    (hf : nextOffset s.cfg.nTx h ≠ s.tx.tail) :
    runMicro none microBound s = .next (finishWrite d (storeAndCommit h d s)) := by
  have h4 := microStep_w4_room hu hf
  have h5 : microStep (goTo (.w5 d h t r s.tx.tail (nextOffset s.cfg.nTx h)) s) =
      .onward (goTo (.w6 d h t r s.tx.tail (nextOffset s.cfg.nTx h)) (s.setFifo .tx (s.tx.store h d))) :=
    microStep_w5 rfl hh
  rw [runMicro_bound_onward h4 (by simp [hu, Upc.label]), runMicro_bound_onward h5 (by simp [Upc.label]),
    runMicro_bound_onward rfl (by simp [Upc.label])]
  exact runMicro_done rfl none 8

theorem resume_w4_room (ha : Armed s) (hu : s.upc = .w4 d h t r seen) (hh : h < s.cfg.nTx)
    (hf : nextOffset s.cfg.nTx h ≠ s.tx.tail) :
    resumeUpto none s = .next (finishWrite d (storeAndCommit h d s)) := by
  rw [resumeUpto_of_armed ha, runMicro_w4_room hu hh hf]

/-- At W4 with room the slot at the latched head exists, or the store faults (R34). -/
theorem lt_of_runMicro_w4_room {t' : State} (hrun : runMicro none microBound s = .next t')
    (hu : s.upc = .w4 d h t r seen) (hf : nextOffset s.cfg.nTx h ≠ s.tx.tail) : h < s.cfg.nTx := by
  by_contra hlt
  have h4 := microStep_w4_room hu hf
  have h5 : microStep (goTo (.w5 d h t r s.tx.tail (nextOffset s.cfg.nTx h)) s) = .fault .noSuchSlot := by
    simp [microStep, microW5, memWrite, hlt]
  rw [runMicro_bound_onward h4 (by simp [hu, Upc.label]), microBound, runMicro, h5] at hrun
  cases hrun

/-- At W4 on a full instance under Discard a WRITE completes with the sentinel (R89). -/
theorem runMicro_w4_discard (hu : s.upc = .w4 d h t r seen) (hf : nextOffset s.cfg.nTx h = s.tx.tail)
    (hp : s.cfg.policy = .discard) :
    runMicro none microBound s = .next (finishWrite sentinel (noteOverflowOnce d seen s)) := by
  rw [runMicro_bound_onward (microStep_w4_discard hu hf hp) (by simp [hu, Upc.label])]
  exact runMicro_done rfl none 8

/-- At W4 on a full instance under Block a WRITE waits (R88). -/
theorem runMicro_w4_block (hu : s.upc = .w4 d h t r seen) (hf : nextOffset s.cfg.nTx h = s.tx.tail)
    (hp : s.cfg.policy = .block) : runMicro none microBound s =
      .next (goTo (.w4 d h t r (some (s.tx.tail, nextOffset s.cfg.nTx h))) (noteOverflowOnce d seen s)) :=
  runMicro_waiting (microStep_w4_block hu hf hp) (by simp [Upc.label]) 8

/-- A full instance of an armed Port is not empty (R68). -/
theorem head_ne_tail_of_full (ha : Armed s) (hf : nextOffset s.cfg.nTx s.tx.head = s.tx.tail) :
    s.tx.head ≠ s.tx.tail := fun he =>
  not_full_of_empty (armed_cap ha .tx) (hf.trans he.symm)

/-! The four ways a WRITE goes. -/

theorem exec_write_fast (hr : Ready s) (he : s.tx.head = s.tx.tail) :
    exec (.write true d) s = .next (finishWrite d (emit (.txregWrite d) s)) := by
  rw [exec_of_ready rfl hr, runMicro_write_fast he]

theorem exec_write_room (hr : Ready s) (hq : ¬ (s.tx.head = s.tx.tail ∧ f = true)) (hh : s.tx.head < s.cfg.nTx)
    (hf : nextOffset s.cfg.nTx s.tx.head ≠ s.tx.tail) :
    exec (.write f d) s = .next (finishWrite d (storeAndCommit s.tx.head d s)) := by
  rw [exec_of_ready rfl hr, runMicro_write_slow hq]
  exact runMicro_w4_room (s := goTo _ s) rfl hh hf

theorem exec_write_discard (hr : Ready s) (hf : nextOffset s.cfg.nTx s.tx.head = s.tx.tail)
    (hp : s.cfg.policy = .discard) :
    exec (.write f d) s = .next (finishWrite sentinel (raise (.transmitOverflow d) s)) := by
  rw [exec_of_ready rfl hr, runMicro_write_slow (by simp [head_ne_tail_of_full hr.1 hf])]
  exact runMicro_w4_discard (s := goTo _ s) rfl hf hp

theorem exec_write_block (hr : Ready s) (hf : nextOffset s.cfg.nTx s.tx.head = s.tx.tail)
    (hp : s.cfg.policy = .block) :
    exec (.write f d) s =
      .next (goTo (.w4 d s.tx.head s.tx.tail none (some (s.tx.tail, nextOffset s.cfg.nTx s.tx.head)))
        (raise (.transmitOverflow d) s)) := by
  have hne := head_ne_tail_of_full hr.1 hf
  rw [exec_of_ready rfl hr, runMicro_write_slow (by simp [hne]), if_neg hne]
  exact runMicro_w4_block (s := goTo _ s) rfl hf hp

/-- What a WRITE that answers did: the byte went to the UART, or into the slot at the head, or the instance was full and
the byte was discarded or waits (R86 to R89). -/
theorem exec_write_next {t : State} (hx : exec (.write f d) s = .next t) :
    (s.tx.head = s.tx.tail ∧ f = true ∧ t = finishWrite d (emit (.txregWrite d) s)) ∨
    (¬ (s.tx.head = s.tx.tail ∧ f = true) ∧ nextOffset s.cfg.nTx s.tx.head ≠ s.tx.tail ∧
      t = finishWrite d (storeAndCommit s.tx.head d s)) ∨
    (nextOffset s.cfg.nTx s.tx.head = s.tx.tail ∧ t = finishWrite sentinel (raise (.transmitOverflow d) s)) ∨
    (nextOffset s.cfg.nTx s.tx.head = s.tx.tail ∧
      t = goTo (.w4 d s.tx.head s.tx.tail none (some (s.tx.tail, nextOffset s.cfg.nTx s.tx.head)))
        (raise (.transmitOverflow d) s)) := by
  have hr := ready_of_exec rfl hx
  by_cases hq : s.tx.head = s.tx.tail ∧ f = true
  · obtain ⟨he, rfl⟩ := hq
    rw [exec_write_fast hr he, Host.Outcome.next.injEq] at hx
    exact .inl ⟨he, rfl, hx.symm⟩
  by_cases hf : nextOffset s.cfg.nTx s.tx.head = s.tx.tail
  · cases hp : s.cfg.policy with
    | discard =>
      rw [exec_write_discard hr hf hp, Host.Outcome.next.injEq] at hx
      exact .inr (.inr (.inl ⟨hf, hx.symm⟩))
    | block =>
      rw [exec_write_block hr hf hp, Host.Outcome.next.injEq] at hx
      exact .inr (.inr (.inr ⟨hf, hx.symm⟩))
  · have hrun := hx
    rw [exec_of_ready rfl hr, runMicro_write_slow hq] at hrun
    have hh := lt_of_runMicro_w4_room hrun rfl hf
    rw [exec_write_room hr hq hh hf, Host.Outcome.next.injEq] at hx
    exact .inr (.inl ⟨hq, hf, hx.symm⟩)

end

/-- Settles O15: the fast path, and W4 with room. -/
theorem writeSendsOrQueuesTheByte : Obligations.WriteSendsOrQueuesTheByte := by
  refine ⟨fun s d hr he => ?fast, fun s f d hr hh hq hf => ?queued⟩
  case fast =>
    rw [exec_write_fast hr he, finishWrite_of_idle (by exact hr.2)]
    rfl
  case queued =>
    rw [exec_write_room hr hq hh hf, finishWrite_of_idle (by exact hr.2)]
    rfl

/-- Settles O16: W4 on a full instance under Discard, as a whole operation and as one micro-step. -/
theorem writeDiscardsWhenFull : Obligations.WriteDiscardsWhenFull := by
  refine ⟨fun s f d hr hp hf => ?whole, fun s d h t r ha hp hu hf =>
    ⟨s.tx.tail, nextOffset s.cfg.nTx h, advance_of_microStep ha ?micro⟩⟩
  case whole =>
    rw [exec_write_discard hr hf hp, finishWrite_of_idle (by exact hr.2)]
    rfl
  case micro =>
    rw [microStep_w4_discard hu hf hp]
    rfl

/-- Settles O17: W4 on a full instance under Block at its first visit and at later ones, and W4 with room. -/
theorem writeWaitsWhenFull : Obligations.WriteWaitsWhenFull := by
  refine ⟨fun s f d hr hp hf => exec_write_block hr hf hp, fun s d h t r seen ha hp hu hf => ?_,
    fun s d h t r seen ha hu hh hf =>
      resume_w4_room ha hu hh hf⟩
  rw [resumeUpto_of_armed ha, runMicro_w4_block hu hf hp]
  rfl

/-- The micro-step that completes a WRITE is W7 (R90). -/
theorem microStep_write_completes {s t : State} (hw : s.upc.inWrite = true) (h : (microStep s).state? = some t)
    (hi : t.upc = .idle) : ∃ ret, t = finishWrite ret s := by
  cases microStep_cases h
  case w7 ret _ => exact ⟨ret, rfl⟩
  all_goals simp_all [Upc.inWrite, Upc.labels]

/-- Settles O19: of the ways a WRITE goes, those that complete it end at W7, which writes TXIE alone. -/
theorem writeAlwaysEnablesTheInterrupt : Obligations.WriteAlwaysEnablesTheInterrupt := by
  refine ⟨fun s f d t hx hi => ?whole, fun s t hw hx hi => ?last⟩
  case whole =>
    obtain ⟨-, -, rfl⟩ | ⟨-, -, rfl⟩ | ⟨-, rfl⟩ | ⟨-, rfl⟩ := exec_write_next hx
    case inr.inr.inr => cases hi
    all_goals rfl
  case last =>
    obtain ⟨ret, rfl⟩ := microStep_write_completes hw (advance_next hx).2 hi
    rfl

/-- Settles O20: of the ways a WRITE goes, only the one on an instance with room writes the transmit instance, which
stores at the head. -/
theorem writeFrame : Obligations.WriteFrame := by
  intro s f d t hx
  obtain ⟨he, hf, rfl⟩ | ⟨hq, hf, rfl⟩ | ⟨hf, rfl⟩ | ⟨hf, rfl⟩ := exec_write_next hx
  case inr.inl =>
    refine ⟨rfl, rfl, rfl, rfl, rfl, rfl, rfl, rfl, rfl, ?_, fun o => rfl, fun o ho => by simp [ho.symm]⟩
    rintro (hfull | ⟨he, hready⟩)
    · exact absurd (by simpa using hfull) hf
    · exact absurd ⟨by simpa using he, hready⟩ hq
  all_goals
    exact ⟨rfl, rfl, rfl, rfl, rfl, rfl, rfl, rfl, rfl, fun _ => rfl, fun _ => rfl, fun _ _ => rfl⟩

/-! ### The queries -/

theorem exec_txfree {s : State} (hr : Ready s) : exec .txfree s =
    .next { s with result := some (countResult (free s.cfg.nTx s.tx.head s.tx.tail)) } := by
  have h0 : microStep (goTo .f0 s) = .onward (goTo (.f1 s.tx.head) s) := rfl
  rw [exec_of_ready rfl hr, microBound, runMicro_onward h0 (by simp [Upc.label]), runMicro_done rfl,
    ← complete_of_idle hr.2]
  rfl

theorem exec_txidle {s : State} (hr : Ready s) : exec .txidle s =
    .next { s with result := some (boolResult (isEmpty s.tx.head s.tx.tail)) } := by
  have h0 : microStep (goTo .i0 s) = .onward (goTo (.i1 s.tx.head) s) := rfl
  rw [exec_of_ready rfl hr, microBound, runMicro_onward h0 (by simp [Upc.label]), runMicro_done rfl,
    ← complete_of_idle hr.2]
  rfl

/-- Settles O21: F0 and F1; between them the head latched stays the head (R43). -/
theorem txfreeReportsFreeSpace : Obligations.TxfreeReportsFreeSpace := by
  refine ⟨fun s hr => ⟨exec_txfree hr, free_range _ _ (cap_pos hr.1.1 .tx)⟩,
    fun s hr => execUpto_first rfl rfl rfl hr rfl, fun s h ha hs hu => advance_of_microStep ha ?_⟩
  obtain rfl : h = s.tx.head := by simpa [WriterCoherent, hu] using hs.writer ha.2
  rw [microStep, hu]
  rfl

/-- Settles O22: I0 and I1. -/
theorem txidleReportsEmpty : Obligations.TxidleReportsEmpty := by
  refine ⟨fun s hr => exec_txidle hr, fun s hr => execUpto_first rfl rfl rfl hr rfl,
    fun s h ha hu => advance_of_microStep ha ?_⟩
  rw [microStep, hu]
  rfl

/-- Settles O25: each query answers the state with a result. -/
theorem queryFrame : Obligations.QueryFrame := by
  intro i s t hi hx
  have hres : ∃ r, t = { s with result := r } := by
    obtain rfl | rfl | rfl := hi
    · rw [exec_txfree (ready_of_exec rfl hx), Host.Outcome.next.injEq] at hx
      exact ⟨_, hx.symm⟩
    · rw [exec_txidle (ready_of_exec rfl hx), Host.Outcome.next.injEq] at hx
      exact ⟨_, hx.symm⟩
    · have hr := ready_of_exec rfl hx
      rw [exec_avail hr, complete_of_idle hr.2, Host.Outcome.next.injEq] at hx
      exact ⟨_, hx.symm⟩
  obtain ⟨r, rfl⟩ := hres
  exact ⟨rfl, fun x o => slotByte_congr (by cases x <;> rfl) o⟩

/-! ### The transmit handler -/

theorem exec_txisr_of_armed {s : State} (ha : Armed s) (f : Bool) : exec (.txisr f) s = transmitHandler f s := by
  rw [exec, execTxisr, blocked_of_armed ha]

/-- What a TXISR that answers did. -/
theorem exec_txisr_next {f : Bool} {s t : State} (h : exec (.txisr f) s = .next t) :
    Armed s ∧ transmitHandler f s = .next t := by
  obtain ⟨hi, -⟩ | ⟨u, hu, -⟩ | ⟨f, hi, ha, ht⟩ | ⟨e, f, d, hi, -⟩ := exec_next h
  · cases hi
  · cases hu
  · cases hi
    exact ⟨ha, ht⟩
  · cases hi

/-- Enabled, with the hardware ready, on an instance that is not empty, the handler pops (R94). -/
theorem transmitHandler_pop {s : State} (hi : s.txie = true) (hne : s.tx.head ≠ s.tx.tail)
    (ht : s.tx.tail < s.cfg.nTx) : transmitHandler true s =
      .next (emit (.txregWrite (s.slotByte .tx s.tx.tail)) (writeTail .tx (s.next .tx s.tx.tail) s)) := by
  simp [transmitHandler, hi, isEmpty, hne, popStep_of_lt (x := .tx) (s := s) ht]

/-- On an empty instance it disables the interrupt (R94). -/
theorem transmitHandler_empty {s : State} (hi : s.txie = true) (he : s.tx.head = s.tx.tail) :
    transmitHandler true s = .next (writeTxie false s) := by
  simp [transmitHandler, hi, he]

/-- Settles O23: the three branches of the handler. -/
theorem txisrPopsOrDisables : Obligations.TxisrPopsOrDisables := by
  refine ⟨fun s f ha hn => ?off, fun s ha hi hne ht => ?pop, fun s ha hi he => ?empty⟩
  all_goals rw [exec_txisr_of_armed ha]
  case off => exact if_neg (by simpa using hn)
  case pop => exact transmitHandler_pop hi hne ht
  case empty => exact transmitHandler_empty hi he

/-- Settles O24: in each of its branches the handler writes the tail, TXIE or nothing, and events. -/
theorem txisrFrame : Obligations.TxisrFrame := by
  intro s f t hx
  have ht := (exec_txisr_next hx).2
  have hbytes (x : Side) : (t.fifo x).buf = (s.fifo x).buf := by
    cases x
    · exact transmitHandler_buf ht
    · exact congrArg Fifo.buf (transmitHandler_frame ht).2.1
  refine ⟨?_, fun x o => slotByte_congr (hbytes x) o⟩
  obtain ⟨-, rfl⟩ | ⟨-, -, -, rfl⟩ | ⟨-, -, -, -, rfl⟩ := transmitHandler_next ht <;> rfl

/-! ### The release of a waiting WRITE -/

/-- A pop and a commit leave the occupancy what it was (R69). -/
theorem occ_next_both {n h t : Nat} (hn : 2 ≤ n) (hh : h < n) (ht : t < n) (hne : h ≠ t) :
    occ n (nextOffset n h) (nextOffset n t) = occ n h t := by
  have hlt := nextOffset_lt t (show 0 < n by omega)
  have hroom : nextOffset n h ≠ nextOffset n t := fun heq => hne (nextOffset_inj hh ht heq)
  rw [occ_next_head hn hh hlt hroom, occ_next_tail hn hh ht hne]

/-- Settles O47: a full instance is not empty, so the interrupt is enabled and TXISR pops; then there is room at W4. -/
theorem popReleasesWaitingWrite : Obligations.PopReleasesWaitingWrite := by
  intro s d h t r seen ha hs hie hu hf
  obtain rfl : h = s.tx.head := by simpa [WriterCoherent, hu] using hs.writer ha.2
  obtain ⟨hh, ht⟩ := hs.offsets ha.2 .tx
  have hne := head_ne_tail_of_full ha (by simpa using hf)
  have htxie : s.txie = true := hie ha.2 (by simp [hu, Upc.label]) (by simpa using hne)
  have hroom : nextOffset s.cfg.nTx s.tx.head ≠ nextOffset s.cfg.nTx s.tx.tail := fun heq =>
    hne (nextOffset_inj hh ht heq)
  refine ⟨_, _, (exec_txisr_of_armed ha true).trans (transmitHandler_pop htxie hne ht),
    resume_w4_room (by exact ha) (by exact hu) (by exact hh) (by exact hroom),
    rfl, rfl, ?slot, ?occupancy⟩
  case slot => simp
  case occupancy => exact occ_next_both (armed_cap ha .tx) hh ht hne

end Sys2Proof.Machine
end

section
/-! PROOF. The statements of 43_receive_path.md: TRYREAD and READB label by label and whole (R96 to R99), AVAIL (R100),
the receive handler (R101 to R108) with the gate's transitions in it (R80, R84), and the release of a READB that waits on
an empty instance (R99, R129). -/

namespace Sys2Proof.Machine

/-! ### What the gate's transitions write -/

theorem openGate_eq (s : State) : openGate s = { s with
    gate := if s.cfg.ctsPresent then .go else s.gate
    ctsPin := if s.cfg.ctsPresent then pinLevel s.cfg .go else s.ctsPin
    trace := s.trace ++ if s.cfg.ctsPresent then [.ctsDrive (pinLevel s.cfg .go)] else [] } := by
  unfold openGate
  split
  · rfl
  · simp

theorem closeGate_eq (s : State) : closeGate s = { s with
    gate := if closes s then .stop else s.gate
    ctsPin := if closes s then pinLevel s.cfg .stop else s.ctsPin
    trace := s.trace ++ if closes s then [.ctsDrive (pinLevel s.cfg .stop)] else [] } := by
  unfold closeGate closes
  split
  · rfl
  · simp

/-! ### What the steps of the receive handler write -/

theorem flush_eq (s : State) : flush s = { s with
    trace := s.trace ++ List.replicate (Config.extraFlushReads s.draws + 1) .rxregRead
      ++ if s.cfg.hwgen = .genB then [.rxReenable] else []
    draws := s.draws + 1 } := by
  unfold flush
  cases s.cfg.hwgen <;> rfl

theorem commitOrDrop_eq (v : Byte) (s : State) : commitOrDrop v s = { s with
    rx := { s.rx with head := if s.full .rx then s.rx.head else s.next .rx s.rx.head }
    trace := s.trace ++ if s.full .rx then [.note (.receiveBufferOverflow v)] else [] } := by
  unfold commitOrDrop
  split
  · rfl
  · simp [writeHead, State.setFifo]

theorem invokeCallback_eq (v : Byte) (s : State) :
    invokeCallback v s = { s with trace := s.trace ++ if s.cfg.callback then [.callback v] else [] } := by
  unfold invokeCallback
  split
  · rfl
  · simp

/-! ### The opening step -/

/-- The opening step opens a gate that is Stop where the free space has come to the threshold (R85). -/
theorem openingStep_opens {t : Nat} {s : State} (hc : s.cfg.ctsPresent = true) (hg : s.gate = .stop)
    (hf : s.cfg.t ≤ openingFree s t s.rx.head) : openingStep t s = writeGate .go s :=
  if_pos (by simp [hc, hg, hf, reopens])

/-- Where one of the tests fails, the opening step does nothing (R85). -/
theorem openingStep_of_not_opens {t : Nat} {s : State}
    (hn : ¬ (s.cfg.ctsPresent = true ∧ s.gate = .stop ∧ s.cfg.t ≤ openingFree s t s.rx.head)) :
    openingStep t s = s :=
  if_neg (by simpa [reopens] using hn)

/-- The opening step writes nothing, or there is a gate and it is opened. -/
theorem openingStep_cases (t : Nat) (s : State) :
    openingStep t s = s ∨ s.cfg.ctsPresent = true ∧ openingStep t s = writeGate .go s := by
  by_cases ho : s.cfg.ctsPresent = true ∧ s.gate = .stop ∧ s.cfg.t ≤ openingFree s t s.rx.head
  · obtain ⟨hc, hg, hf⟩ := ho
    exact .inr ⟨hc, openingStep_opens hc hg hf⟩
  · exact .inl (openingStep_of_not_opens ho)

/-! ### The reads with no handler between their micro-steps -/

/-- A read pops the oldest byte and completes with it, the opening step between (R96, R97). -/
def popAndComplete (s : State) : State :=
  complete (some (readResult (s.slotByte .rx s.rx.tail) true))
    (openingStep s.rx.tail (writeTail .rx (s.next .rx s.rx.tail) s))

theorem exec_read_pops {i : Instr} {op : ReadOp} {s : State} (hu : startOf i = some (.t0 op)) (hr : Ready s)
    (hne : s.rx.head ≠ s.rx.tail) (hlt : s.rx.tail < s.cfg.nRx) : exec i s = .next (popAndComplete s) := by
  rw [exec_of_ready hu hr, runMicro_read_found op hne hlt, popAndComplete]

/-- What a read that answers did: TRYREAD found nothing, READB waits, or it popped (R96, R98, R99). -/
theorem exec_read_answers {i : Instr} {s t : State} (hi : i = .tryread ∨ i = .readb) (h : exec i s = .next t) :
    t = complete (some (readResult (drawByte s).1 false)) (drawByte s).2 ∨ t = goTo (.t0 .readb) s ∨
      t = popAndComplete s := by
  obtain ⟨op, hu⟩ : ∃ op, startOf i = some (.t0 op) := by
    obtain rfl | rfl := hi <;> exact ⟨_, rfl⟩
  have hr := ready_of_exec hu h
  by_cases he : s.rx.head = s.rx.tail
  · obtain rfl | rfl := hi
    · rw [exec_tryread_empty hr he, Host.Outcome.next.injEq] at h
      exact .inl h.symm
    · rw [exec_readb_empty hr he, Host.Outcome.next.injEq] at h
      exact .inr (.inl h.symm)
  · have hlt : s.rx.tail < s.cfg.nRx := tail_lt_of_runMicro_read he (exec_of_ready hu hr ▸ h)
    rw [exec_read_pops hu hr he hlt, Host.Outcome.next.injEq] at h
    exact .inr (.inr h.symm)

/-- Settles O26: what TRYREAD answers on an empty instance. -/
theorem tryreadFindsNothing : Obligations.TryreadFindsNothing := by
  intro s hr he
  refine ⟨Config.unfoundByte s.draws, ?_⟩
  rw [exec_tryread_empty hr he, complete_of_idle (by exact hr.2)]
  rfl

/-- Settles O27: the pop, then the opening step, which opens the gate or does nothing. -/
theorem tryreadPopsTheOldestByte : Obligations.TryreadPopsTheOldestByte := by
  intro s hr hne hlt tail' opens
  rw [exec_read_pops rfl hr hne hlt, popAndComplete]
  by_cases ho : opens
  · obtain ⟨hc, hg, hf⟩ := ho
    rw [openingStep_opens (s := writeTail .rx (s.next .rx s.rx.tail) s) hc hg hf, complete_of_idle (by exact hr.2)]
    simp only [if_pos (show opens from ⟨hc, hg, hf⟩)]
    rfl
  · rw [openingStep_of_not_opens (s := writeTail .rx (s.next .rx s.rx.tail) s) ho, complete_of_idle (by exact hr.2)]
    simp only [if_neg ho, List.append_nil]
    rfl

/-- Resumed at T0 on an instance that is still empty, a READB comes back to T0 (R99). -/
theorem resume_readb_empty {s : State} (ha : Armed s) (hu : s.upc = .t0 .readb) (he : s.rx.head = s.rx.tail) :
    resumeUpto none s = .next s := by
  have hgo : goTo (.t0 .readb) s = s := by rw [← hu]; rfl
  have h0 : microStep s = .onward (goTo (.t1 .readb s.rx.head) s) := by rw [microStep, hu]; rfl
  rw [resumeUpto_of_armed ha, runMicro_bound_onward h0 (by simp [hu, Upc.label])]
  exact hgo ▸ runMicro_waiting (microStep_readb_empty he) (by simp [Upc.label]) 8

/-- Settles O28: on an instance that is not empty both reads answer the same state. -/
theorem readbRepeatsTryread : Obligations.ReadbRepeatsTryread :=
  ⟨fun s hr hne hlt => ⟨popAndComplete s, exec_read_pops rfl hr hne hlt, exec_read_pops rfl hr hne hlt, rfl, rfl,
      by simp [popAndComplete]⟩,
    fun _ hr he => exec_readb_empty hr he, fun _ ha hu he => resume_readb_empty ha hu he⟩

/-- Settles O30: what each answer of a read writes; of the opening step, that it writes nothing or opens the gate. -/
theorem readFrame : Obligations.ReadFrame := by
  intro i s t hi h
  obtain rfl | rfl | rfl := exec_read_answers hi h
  · exact ⟨rfl, rfl, rfl, rfl, rfl, rfl, rfl, .inl rfl, .inl ⟨rfl, rfl, rfl⟩, by simp⟩
  · exact ⟨rfl, rfl, rfl, rfl, rfl, rfl, rfl, .inl rfl, .inl ⟨rfl, rfl, rfl⟩, by simp⟩
  · rw [popAndComplete]
    obtain heq | ⟨hc, heq⟩ := openingStep_cases s.rx.tail (writeTail .rx (s.next .rx s.rx.tail) s)
    · rw [heq]
      exact ⟨rfl, rfl, rfl, rfl, rfl, rfl, rfl, .inr rfl, .inl ⟨rfl, rfl, rfl⟩, by simp⟩
    · rw [heq]
      exact ⟨rfl, rfl, rfl, rfl, rfl, rfl, rfl, .inr rfl, .inr ⟨hc, rfl⟩, by simp⟩

/-! ### The micro-steps of the reads -/

section
variable {s : State} {op : ReadOp} {h t : Nat} {b : Byte}

theorem microStep_t1_found (hu : s.upc = .t1 op h) (he : h ≠ s.rx.tail) :
    microStep s = .onward (goTo (.t2 op h s.rx.tail) s) := by
  rw [microStep, hu]
  exact if_neg (by simpa using he)

/-- T1 finds the latches equal (R98, R99). -/
theorem microStep_t1_notFound (hu : s.upc = .t1 op h) (he : h = s.rx.tail) : microStep s = notFound op s := by
  rw [microStep, hu]
  exact if_pos (by simpa using he)

/-- A READB starts over at T0, whether it waits there or runs on (R99). -/
theorem startOver_state (s : State) : (startOver s).state? = some (goTo (.t0 .readb) s) := by
  unfold startOver
  split <;> rfl

theorem microStep_t2 (hu : s.upc = .t2 op h t) (ht : t < s.cfg.nRx) :
    microStep s = .onward (goTo (.t3 op h t (s.slotByte .rx t)) s) := by
  rw [microStep, hu]
  exact microT2_of_lt op h ht

/-- Where there is a gate, T3 goes on to T4 (R96). -/
theorem microStep_t3_gated (hu : s.upc = .t3 op h t b) (hc : s.cfg.ctsPresent = true) :
    microStep s = .onward (goTo (.t4 op h t b) (writeTail .rx (s.next .rx t) s)) := by
  rw [microStep, hu]
  exact if_pos hc

/-- Without a gate T3 is the last micro-step (R77, R96). -/
theorem microStep_t3_ungated (hu : s.upc = .t3 op h t b) (hc : s.cfg.ctsPresent = false) :
    microStep s = .done (complete (some (readResult b true)) (writeTail .rx (s.next .rx t) s)) := by
  rw [microStep, hu]
  exact if_neg (by simp [hc])

/-- Both tests of the opening step hold at T5 (R85). -/
theorem microStep_t5_opens {h2 f : Nat} (hu : s.upc = .t5 op h t b h2 f) (hg : s.gate = .stop) (hf : s.cfg.t ≤ f) :
    microStep s = .onward (goTo (.t6 op h t b h2 f .stop) s) := by
  rw [microStep, hu, ← hg]
  exact if_pos (by simp [reopens, hg, hf])

/-- One of them fails, and T5 is the last micro-step (R85). -/
theorem microStep_t5_stays {h2 f : Nat} (hu : s.upc = .t5 op h t b h2 f) (hn : ¬ (s.gate = .stop ∧ s.cfg.t ≤ f)) :
    microStep s = .done (complete (some (readResult b true)) s) := by
  rw [microStep, hu]
  exact if_neg (by simpa [reopens] using hn)

end

/-- Settles O29: the micro-step of each label, performed by an armed Port. -/
theorem readMicroProgram : Obligations.ReadMicroProgram := by
  refine ⟨fun s hr => ⟨execUpto_first rfl rfl rfl hr rfl, execUpto_first rfl rfl rfl hr rfl⟩, fun s op ha =>
    ⟨fun hu => ?t0, fun h hu he => ?t1, fun h hu he => ⟨Config.unfoundByte s.draws, ?t1None⟩,
      fun h hu he => ?t1Again, fun h t hu ht => ?t2, fun h t b hu hc => ?t3, fun h t b hu hc => ?t3Last, fun h t b hu => ?t4,
      fun h t b h2 f hu hg hf => ?t5, fun h t b h2 f hu hn => ?t5Last, fun h t b h2 f g hu => ?t6⟩⟩
  all_goals refine advance_of_microStep ha ?_
  case t1 => rw [microStep_t1_found hu he]; rfl
  case t1None => rw [microStep_t1_notFound hu he]; rfl
  case t1Again => rw [microStep_t1_notFound hu he]; exact startOver_state s
  case t2 => rw [microStep_t2 hu ht]; rfl
  case t3 => rw [microStep_t3_gated hu hc]; rfl
  case t3Last => rw [microStep_t3_ungated hu hc]; rfl
  case t5 => rw [microStep_t5_opens hu hg hf]; rfl
  case t5Last => rw [microStep_t5_stays hu hn]; rfl
  all_goals rw [microStep, hu]; rfl

/-! ### The receive handler -/

theorem exec_rxisr_of_armed {s : State} (ha : Armed s) (e f : Bool) (d : Byte) :
    exec (.rxisr e f d) s = receiveHandler e f d s := by
  rw [exec, execRxisr, blocked_of_armed ha]

/-- The receive instance after the store and the head of case 3: the byte is at the old head, and the head committed
unless the instance is full (R104, R106). -/
theorem commitOrDrop_receivedAtHead_rx (d : Byte) (s : State) :
    (commitOrDrop d (invokeCallback d (receivedAtHead d s))).rx = { s.rx with
      head := if nextOffset s.cfg.nRx s.rx.head = s.rx.tail then s.rx.head else nextOffset s.cfg.nRx s.rx.head
      buf := Memory.set s.rx.buf s.rx.head d } := by
  by_cases hd : nextOffset s.cfg.nRx s.rx.head = s.rx.tail <;> simp [receivedAtHead, Fifo.store, hd]

/-- The state in which case 3 of the handler ends (R104). -/
def afterData (d : Byte) (s : State) : State := closeGate (commitOrDrop d (invokeCallback d (receivedAtHead d s)))

section
variable (d : Byte) (s : State)

@[simp] theorem afterData_cfg : (afterData d s).cfg = s.cfg := by simp [afterData, receivedAtHead]

@[simp] theorem afterData_upc : (afterData d s).upc = s.upc := by simp [afterData, receivedAtHead]

@[simp] theorem afterData_inited : (afterData d s).inited = s.inited := by simp [afterData, receivedAtHead]

@[simp] theorem afterData_draws : (afterData d s).draws = s.draws := by simp [afterData, receivedAtHead]

theorem afterData_rx : (afterData d s).rx = { s.rx with
    head := if nextOffset s.cfg.nRx s.rx.head = s.rx.tail then s.rx.head else nextOffset s.cfg.nRx s.rx.head
    buf := Memory.set s.rx.buf s.rx.head d } :=
  (closeGate_rx _).trans (commitOrDrop_receivedAtHead_rx d s)

@[simp] theorem slotByte_afterData (x : Side) (o : Nat) :
    (afterData d s).slotByte x o = if x = .rx ∧ o = s.rx.head then d else s.slotByte x o := by simp [afterData]

end

/-- With data, and a slot at the head, the handler ends there. -/
theorem receiveHandler_of_data {s : State} (hh : s.rx.head < s.cfg.nRx) (d : Byte) :
    receiveHandler false true d s = .next (afterData d s) := by
  have hw : memWrite .rx s.rx.head d (emit .rxregRead s) = .ok (receivedAtHead d s) := memWrite_of_lt d hh
  simp only [receiveHandler, classify, receiveData, hw, afterData, Bool.not_true, Bool.false_eq_true, if_false]

/-- Settles O32: case 1 of the handler. -/
theorem rxisrWithoutFlagDoesNothing : Obligations.RxisrWithoutFlagDoesNothing := fun s e d ha =>
  (exec_rxisr_of_armed ha e false d).trans (receiveHandler_of_no_flag e d s)

/-- Settles O33: case 2 of the handler. -/
theorem rxisrErrorRecovers : Obligations.RxisrErrorRecovers := by
  intro s d ha
  refine ⟨Config.extraFlushReads s.draws, ?_⟩
  rw [exec_rxisr_of_armed ha, receiveHandler_of_error, recoverReceive, openGate_eq, flush_eq]
  rfl

/-- Settles O34: case 3 of the handler. -/
theorem rxisrStoresTheByte : Obligations.RxisrStoresTheByte := by
  intro s d ha hh drops head' shuts
  have hdrops : (invokeCallback d (receivedAtHead d s)).full .rx = true ↔ drops := by simp [receivedAtHead, drops]
  have hshuts : closes (commitOrDrop d (invokeCallback d (receivedAtHead d s))) = true ↔ shuts := by
    rw [closes_iff, freeSpace_rx, commitOrDrop_receivedAtHead_rx]
    simp [receivedAtHead, shuts, head', drops]
  rw [exec_rxisr_of_armed ha, receiveHandler_of_data hh, afterData, closeGate_eq]
  simp only [hshuts]
  rw [commitOrDrop_eq]
  simp only [hdrops]
  rw [invokeCallback_eq]
  rfl

/-- Settles O35: what each case of the handler writes. -/
theorem rxisrFrame : Obligations.RxisrFrame := by
  intro s e f d t hx
  obtain ⟨rfl, rfl⟩ | ⟨rfl, rfl, rfl⟩ | ⟨rfl, rfl, -, rfl⟩ := receiveHandler_next (exec_rxisr_next hx).2
  case inl => simp [classify]
  case inr.inl =>
    refine ⟨?state, fun hc => by simp [hc], nofun, fun o => ?_, fun _ o => ?_, fun o _ => ?_⟩
    case state => rw [recoverReceive, openGate_eq]; rfl
    all_goals exact slotByte_recoverReceive s _ o
  case inr.inr =>
    rw [← afterData]
    refine ⟨?state, fun hc => ?gate, fun _ => ⟨by rw [afterData_rx], afterData_draws d s⟩, fun o => by simp,
      fun hn => absurd rfl hn, fun o ho => by simp [ho]⟩
    case state => rw [afterData, closeGate_eq, commitOrDrop_eq, invokeCallback_eq]; rfl
    case gate =>
      rw [afterData, closeGate_of_absent (by simpa [receivedAtHead] using hc)]
      simp [receivedAtHead]

/-! ### AVAIL -/

/-- An RXISR that finds no error does not empty the instance: it leaves it, or advances the head short of the tail
(R106). -/
theorem receiveHandler_not_empty {e f : Bool} {d : Byte} {s t : State} (hc : classify e f ≠ .hardwareError)
    (h : receiveHandler e f d s = .next t) (hne : s.rx.head ≠ s.rx.tail) : t.rx.head ≠ t.rx.tail := by
  obtain ⟨-, rfl⟩ | ⟨rfl, rfl, -⟩ | ⟨-, -, -, rfl⟩ := receiveHandler_next h
  · exact hne
  · exact absurd rfl hc
  · rw [← afterData, afterData_rx]
    split
    · exact hne
    · next hroom => exact hroom

/-- Settles O31: A0 and A1; the transmit handler leaves the receive instance, and the receive handler empties it on an
error alone. -/
theorem availReportsNotEmpty : Obligations.AvailReportsNotEmpty := by
  refine ⟨fun s hr => ?whole, fun s hr => execUpto_first rfl rfl rfl hr rfl,
    fun s h ha hu => advance_of_microStep ha ?last, fun i s t hi hx hne => ?handlers⟩
  case whole =>
    rw [exec_avail hr, complete_of_idle hr.2]
    simp [boolResult, isEmpty]
  case last =>
    rw [microStep, hu]
    simp [microA1, complete, boolResult, isEmpty]
  case handlers =>
    obtain ⟨f, rfl⟩ | ⟨e, f, d, rfl, hc⟩ := hi
    · obtain ⟨-, hrx, -⟩ := transmitHandler_frame (exec_txisr_next hx).2
      rwa [hrx]
    · exact receiveHandler_not_empty hc (exec_rxisr_next hx).2 hne

/-! ### The release of a waiting READB -/

/-- A READB at T0, or at T1 with the latches equal, resumed when a byte has come in, pops it (R99). -/
theorem resume_readb_pops {s : State} (ha : Armed s) (hu : s.upc = .t0 .readb ∨ s.upc = .t1 .readb s.rx.tail)
    (hne : s.rx.head ≠ s.rx.tail) (hlt : s.rx.tail < s.cfg.nRx) : resumeUpto none s = .next (popAndComplete s) := by
  have hpops : runMicro none microBound (goTo (.t0 .readb) s) = .next (popAndComplete s) :=
    runMicro_read_found .readb hne hlt
  rw [resumeUpto_of_armed ha]
  obtain hu | hu := hu
  · have hgo : goTo (.t0 .readb) s = s := by rw [← hu]; rfl
    rwa [hgo] at hpops
  · have h1 : (microStep s).state? = some (goTo (.t0 .readb) s) :=
      (congrArg Progress.state? (microStep_t1_notFound hu rfl)).trans (startOver_state s)
    rw [← runMicro_none_microStep h1, hpops]

/-- Settles O48: on an empty instance the handler commits its byte, which the READB then pops. -/
theorem byteReleasesWaitingReadb : Obligations.ByteReleasesWaitingReadb := by
  intro s d ha hs hu hempty
  have he : s.rx.head = s.rx.tail := by simpa using hempty
  obtain ⟨hh, ht⟩ := hs.offsets ha.2 .rx
  have hroom : nextOffset s.cfg.nRx s.rx.head ≠ s.rx.tail := he ▸ not_full_of_empty (armed_cap ha .rx)
  have hrx := afterData_rx d s
  rw [if_neg hroom] at hrx
  refine ⟨afterData d s, popAndComplete (afterData d s),
    (exec_rxisr_of_armed ha false true d).trans (receiveHandler_of_data hh d),
    resume_readb_pops ?armed ?waits ?comes ?slot, rfl, ?byte, ?empty⟩
  case armed => simpa [Armed] using ha
  case waits => rwa [afterData_upc, hrx, ← he]
  case comes => rwa [hrx]
  case slot => rwa [hrx, afterData_cfg]
  case byte => simp [popAndComplete, readResult, hrx, he]
  case empty => simp [popAndComplete, hrx, he]

end Sys2Proof.Machine
end

section
/-! PROOF. The statements of 44_port_lifecycle.md: INIT as one transition of the whole state (R111), the stores it leaves
(R38), and the empty instances it leaves (R114). -/

namespace Sys2Proof.Machine

/-! ### INIT as one transition -/

/-- Every field INIT writes, with the value it takes (R111). -/
theorem initialise_eq (s : State) : initialise s = { s with
    tx := { head := 0, tail := 0, buf := s.tx.buf }
    rx := { head := 0, tail := 0, buf := s.rx.buf }
    rxie := true
    txie := false
    gate := if s.cfg.ctsPresent then .go else s.gate
    ctsPin := if s.cfg.ctsPresent then pinLevel s.cfg .go else s.ctsPin
    trace := s.trace ++ .uartConfigure :: (if s.cfg.ctsPresent then [.ctsDrive (pinLevel s.cfg .go)] else [])
    upc := .idle
    inited := true
    result := none } := by
  rw [initialise, openGate_eq, List.append_cons]
  rfl

/-- Settles O11: nothing blocks INIT, and `Go` is 1 on the pin before its inversion (R24, R57). -/
theorem initResetsThePort : Obligations.InitResetsThePort := by
  intro s hl hu
  rw [exec_init_of_idle hl hu, initialise_eq]
  rfl

/-- INIT that answers found nothing to refuse it, and performed its transition. -/
theorem exec_init_next {s t : State} (h : exec .init s = .next t) : s.cfg.legal = true ∧ t = initialise s := by
  obtain ⟨-, hl, -, ht⟩ | ⟨u, hu, -⟩ | ⟨f, hi, -⟩ | ⟨e, f, d, hi, -⟩ := exec_next h
  · exact ⟨hl, ht⟩
  · simp [startOf] at hu
  · cases hi
  · cases hi

/-! ### The Port after INIT -/

/-- All the slots of an instance whose offsets are equal are free (R70). -/
theorem free_self (n h : Nat) : free n h h = n := by simp [free]

/-- INIT leaves both instances empty, with all their slots free (R114). -/
theorem initialise_empties (s : State) (x : Side) :
    (initialise s).occupancy x = 0 ∧ (initialise s).freeSpace x = (initialise s).cap x ∧
      (initialise s).empty x = true := by
  cases x <;> simp [State.occupancy, free_self]

/-- After INIT under a legal configuration every mainline operation may be issued (R113, R134). -/
theorem initialise_ready {s : State} (hl : s.cfg.legal = true) : Ready (initialise s) := by
  simp [Ready, Armed, hl]

section
variable {s : State} (hl : s.cfg.legal = true)
include hl

/-! What the three queries answer of the empty instances (R111). -/

theorem exec_txfree_initialise : exec .txfree (initialise s) =
    .next { initialise s with result := some { flag := false, value := (initialise s).cfg.nTx } } := by
  simp [exec_txfree (initialise_ready hl), countResult, free_self]

theorem exec_txidle_initialise : exec .txidle (initialise s) =
    .next { initialise s with result := some { flag := true, value := 0 } } := by
  simp [exec_txidle (initialise_ready hl), boolResult, isEmpty]

theorem exec_avail_initialise : exec .avail (initialise s) =
    .next { initialise s with result := some { flag := false, value := 0 } } := by
  rw [exec_avail (initialise_ready hl), complete_of_idle (initialise_upc s)]
  simp [boolResult, isEmpty]

end

/-- Settles O13: INIT's frame, field by field, and what the Port after it answers. -/
theorem initEmptiesWithoutClearing : Obligations.InitEmptiesWithoutClearing := by
  intro s t h
  obtain ⟨hl, rfl⟩ := exec_init_next h
  exact ⟨initialise_cfg s, initialise_draws s, initialise_input s, fun hc => by simp [hc], slotByte_initialise s,
    initialise_empties s, exec_txfree_initialise hl, exec_txidle_initialise hl, exec_avail_initialise hl⟩

end Sys2Proof.Machine
end

section
/-! PROOF. The statements of 60_exceptions.md: an operation in the wrong context (R128), the two handlers in either order
(R124), and the two operations of mainline that wait (R129). -/

namespace Sys2Proof.Machine

/-! ### An operation in the wrong context -/

/-- A request of an agent other than the operation's own is refused before anything is performed (R128). -/
theorem step_request_of_other_agent {s : State} {agent : Agent} {w : OpWord} {upto : Option Label} {rest : List Input}
    {i : Instr} (hin : s.input = .request agent w upto :: rest) (hd : decode w = .ok i) (ha : i.agent ≠ agent) :
    step s = .refused .wrongContext := by
  rw [step_of_item hin, perform, performRequest, hd]
  exact if_neg (by simpa [Instr.allowedFrom] using ha)

/-- Settles O7: in each of the three cases the agent is not the operation's own. -/
theorem wrongContextIsRefused : Obligations.WrongContextIsRefused := by
  intro s agent w upto rest i hin hd
  refine ⟨fun hi ha => ?mainlineOp, fun hi ha => ?handlerOp, step_request_of_other_agent hin hd⟩
  case mainlineOp => exact step_request_of_other_agent hin hd (hi ▸ ha.symm)
  case handlerOp => exact step_request_of_other_agent hin hd (ha ▸ hi)

/-! ### The two handlers in either order -/

/-- The fields the transmit handler writes (R94, R124), and the events it adds. -/
def transmitWrites (tx : Fifo) (txie : Bool) (es : List Event) (s : State) : State :=
  { s with tx := tx, txie := txie, trace := s.trace ++ es }

/-- The fields the receive handler writes (R101, R124), and the events it adds. -/
def receiveWrites (rx : Fifo) (g : Gate) (pin : Bool) (draws : Nat) (es : List Event) (s : State) : State :=
  { s with rx := rx, gate := g, ctsPin := pin, draws := draws, trace := s.trace ++ es }

/-- What the transmit handler writes, it writes whatever the receive handler has written before (R124). -/
theorem exec_txisr_after_receiveWrites {f : Bool} {s t : State} (h : exec (.txisr f) s = .next t) :
    ∃ tx txie es, t = transmitWrites tx txie es s ∧ ∀ rx g pin draws es',
      exec (.txisr f) (receiveWrites rx g pin draws es' s) =
        .next (transmitWrites tx txie es (receiveWrites rx g pin draws es' s)) := by
  obtain ⟨off, pop, empty⟩ := txisrPopsOrDisables
  obtain ⟨ha, ht⟩ := exec_txisr_next h
  obtain ⟨hn, rfl⟩ | ⟨rfl, hi, he, rfl⟩ | ⟨rfl, hi, hne, hlt, rfl⟩ := transmitHandler_next ht
  · refine ⟨t.tx, t.txie, [], by simp [transmitWrites], fun rx g pin draws es' => ?_⟩
    rw [off (receiveWrites rx g pin draws es' t) f ha (by simpa [receiveWrites] using hn)]
    simp [transmitWrites, receiveWrites]
  · refine ⟨s.tx, false, [], by simp [transmitWrites, writeTxie], fun rx g pin draws es' => ?_⟩
    rw [empty (receiveWrites rx g pin draws es' s) ha hi he]
    simp [transmitWrites, receiveWrites]
  · exact ⟨_, s.txie, _, rfl, fun rx g pin draws es' => pop _ ha hi hne hlt⟩

/-- Case 2 of the receive handler as one update (R103). -/
theorem recoverReceive_eq (s : State) : recoverReceive s = receiveWrites { s.rx with head := 0, tail := 0 }
    (if s.cfg.ctsPresent then .go else s.gate) (if s.cfg.ctsPresent then pinLevel s.cfg .go else s.ctsPin) (s.draws + 1)
    ([.note .receiveHardwareError] ++ (List.replicate (Config.extraFlushReads s.draws + 1) .rxregRead ++
      ((if s.cfg.hwgen = .genB then [.rxReenable] else []) ++
        if s.cfg.ctsPresent then [.ctsDrive (pinLevel s.cfg .go)] else []))) s := by
  rw [recoverReceive, openGate_eq, flush_eq]
  simp only [receiveWrites, ← List.append_assoc]
  rfl

/-- What the receive handler wrote after the transmit handler, it writes before it (R124). -/
theorem exec_rxisr_before_transmitWrites {e f : Bool} {d : Byte} {tx : Fifo} {txie : Bool} {es : List Event}
    {s t : State} (h : exec (.rxisr e f d) (transmitWrites tx txie es s) = .next t) :
    ∃ rx g pin draws es', t = receiveWrites rx g pin draws es' (transmitWrites tx txie es s) ∧
      exec (.rxisr e f d) s = .next (receiveWrites rx g pin draws es' s) := by
  obtain ⟨ha, ht⟩ := exec_rxisr_next h
  have has : Armed s := ha
  obtain ⟨rfl, rfl⟩ | ⟨rfl, rfl, rfl⟩ | ⟨rfl, rfl, hlt, -⟩ := receiveHandler_next ht
  · refine ⟨s.rx, s.gate, s.ctsPin, s.draws, [], by simp [transmitWrites, receiveWrites], ?_⟩
    rw [rxisrWithoutFlagDoesNothing s e d has]
    simp [receiveWrites]
  · refine ⟨_, _, _, _, _, recoverReceive_eq _, ?_⟩
    rw [exec_rxisr_of_armed has, receiveHandler_of_error, recoverReceive_eq]
    rfl
  · have hs := rxisrStoresTheByte s d has hlt
    have ht := h.symm.trans (rxisrStoresTheByte (transmitWrites tx txie es s) d ha hlt)
    simp only [List.append_assoc, Host.Outcome.next.injEq] at hs ht
    exact ⟨_, _, _, _, _, ht, hs⟩

/-- Settles O43: each handler writes the same after the other as before it, and their fields are disjoint. -/
theorem handlersCommute : Obligations.HandlersCommute := by
  intro s f e g d a b hta hrb
  obtain ⟨tx, txie, es, rfl, htx⟩ := exec_txisr_after_receiveWrites hta
  obtain ⟨rx, gate, pin, draws, es', rfl, hrx⟩ := exec_rxisr_before_transmitWrites hrb
  refine ⟨_, _, hrx, htx rx gate pin draws es', rfl, ?_⟩
  have hswap : (s.trace ++ (es ++ es')).Perm (s.trace ++ (es' ++ es)) := List.perm_append_comm.append_left s.trace
  simpa [transmitWrites, receiveWrites] using hswap

/-! ### The operations that wait -/

section
variable {s : State} (hr : Ready s) (hs : Coherent s)
include hr hs

/-- A WRITE answers, and has completed unless it waits at W4 on a full instance under Block (R88). -/
theorem exec_write_completes_or_waits (f : Bool) (d : Byte) : ∃ t, exec (.write f d) s = .next t ∧
    (t.upc = .idle ∨ s.cfg.policy = .block ∧ s.full .tx = true ∧ t.upc.label = some .w4) := by
  by_cases hf : nextOffset s.cfg.nTx s.tx.head = s.tx.tail
  · cases hp : s.cfg.policy with
    | block => exact ⟨_, exec_write_block hr hf hp, .inr ⟨rfl, by simpa using hf, rfl⟩⟩
    | discard => exact ⟨_, exec_write_discard hr hf hp, .inl rfl⟩
  · by_cases hq : s.tx.head = s.tx.tail ∧ f = true
    · obtain ⟨he, rfl⟩ := hq
      exact ⟨_, exec_write_fast hr he, .inl rfl⟩
    · exact ⟨_, exec_write_room hr hq (hs.offsets hr.1.2 .tx).1 hf, .inl rfl⟩

/-- A READB answers, and has completed unless it waits at T0 on an empty instance (R99). -/
theorem exec_readb_completes_or_waits : ∃ t, exec .readb s = .next t ∧
    (t.upc = .idle ∨ s.empty .rx = true ∧ t.upc = .t0 .readb) := by
  by_cases he : s.rx.head = s.rx.tail
  · exact ⟨_, exec_readb_empty hr he, .inr ⟨by simpa using he, rfl⟩⟩
  · exact ⟨_, exec_read_pops rfl hr he (hs.offsets hr.1.2 .rx).2, .inl rfl⟩

/-- A TRYREAD completes, on an empty instance too (R98). -/
theorem exec_tryread_completes : ∃ t, exec .tryread s = .next t ∧ t.upc = .idle := by
  by_cases he : s.rx.head = s.rx.tail
  · exact ⟨_, exec_tryread_empty hr he, rfl⟩
  · exact ⟨_, exec_read_pops rfl hr he (hs.offsets hr.1.2 .rx).2, rfl⟩

/-- Every mainline operation but WRITE and READB completes (R129). -/
theorem exec_mainline_completes {i : Instr} (hi : i.agent = .mainline) (hw : ∀ f d, i ≠ .write f d) (hb : i ≠ .readb) :
    ∃ t, exec i s = .next t ∧ t.upc = .idle := by
  cases i with
  | init => exact ⟨_, exec_init_of_idle hr.1.1 hr.2, initialise_upc s⟩
  | write f d => exact absurd rfl (hw f d)
  | txfree => exact ⟨_, exec_txfree hr, hr.2⟩
  | txidle => exact ⟨_, exec_txidle hr, hr.2⟩
  | tryread => exact exec_tryread_completes hr hs
  | readb => exact absurd rfl hb
  | avail => exact ⟨_, exec_avail hr, rfl⟩
  | txisr f => cases hi
  | rxisr e f d => cases hi

end

/-- Settles O46: WRITE and READB wait where they are said to, and the other mainline operations complete. -/
theorem onlyWriteAndReadbWait : Obligations.OnlyWriteAndReadbWait := by
  intro i s hr hs hi
  by_cases hw : ∃ f d, i = .write f d
  · obtain ⟨f, d, rfl⟩ := hw
    obtain ⟨t, hx, hc⟩ := exec_write_completes_or_waits hr hs f d
    exact ⟨t, hx, fun hu => .inl ⟨⟨f, d, rfl⟩, hc.resolve_left hu⟩⟩
  by_cases hb : i = .readb
  · subst hb
    obtain ⟨t, hx, hc⟩ := exec_readb_completes_or_waits hr hs
    exact ⟨t, hx, fun hu => .inr ⟨rfl, hc.resolve_left hu⟩⟩
  · obtain ⟨t, hx, hc⟩ := exec_mainline_completes hr hs hi (fun f d h => hw ⟨f, d, h⟩) hb
    exact ⟨t, hx, fun hu => absurd hc hu⟩

end Sys2Proof.Machine
end

section
/-! PROOF. The statements of 70_reset_and_hazards.md: the operations before the first INIT (R134), a free space above 1
and a WRITE (R142, R145), the stale gate write (R140), and an error recovery inside a read (R139). -/

namespace Sys2Proof.Machine

/-! ### Before the first INIT -/

theorem blocked_of_not_inited {s : State} (hl : s.cfg.legal = true) (hi : s.inited = false) :
    blocked s = some .beforeInit := by
  simp [blocked, hl, hi]

theorem blockedMainline_of_blocked {s : State} {r : Refusal} (hb : blocked s = some r) :
    blockedMainline s = some r := by
  rw [blockedMainline, hb]

/-- What blocks a handler refuses every operation but INIT (R134). -/
theorem exec_of_blocked {i : Instr} {s : State} {r : Refusal} (hi : i ≠ .init) (hb : blocked s = some r) :
    exec i s = .refused r := by
  obtain ⟨u, hu⟩ | rfl | ⟨f, rfl⟩ | ⟨e, f, d, rfl⟩ := startOf_cases i
  · rw [exec_of_startOf hu, issue, issueUpto, blockedMainline_of_blocked hb]
  · exact absurd rfl hi
  · rw [exec, execTxisr, hb]
  · rw [exec, execRxisr, hb]

/-- Split at a label, an operation that is blocked is refused too, if not for its label (R41, R62). -/
theorem execUpto_of_blocked (i : Instr) (l : Label) {s : State} {r : Refusal} (hb : blocked s = some r) :
    ∃ r', execUpto i l s = .refused r' := by
  unfold execUpto
  split
  · exact ⟨_, rfl⟩
  · split
    · exact ⟨r, by rw [issueUpto, blockedMainline_of_blocked hb]⟩
    · exact ⟨_, rfl⟩

theorem performInstr_of_blocked {i : Instr} {s : State} {r : Refusal} (hi : i ≠ .init) (hb : blocked s = some r)
    (upto : Option Label) : ∃ r', performInstr upto i s = .refused r' := by
  cases upto with
  | none => exact ⟨r, exec_of_blocked hi hb⟩
  | some l => exact execUpto_of_blocked i l hb

/-- Settles O8: before INIT every operation but INIT is blocked, and a step refuses another agent before it asks for one. -/
theorem operationsBeforeInitAreRefused : Obligations.OperationsBeforeInitAreRefused := by
  refine ⟨fun i s hl hn hi => exec_of_blocked hi (blocked_of_not_inited hl hn), ?_⟩
  intro s agent w upto rest i hn hin hd hi
  by_cases ha : i.agent = agent
  · have hb : blocked { s with input := rest } ≠ none := by simp [blocked_eq_none, Armed, hn]
    obtain ⟨r, hr⟩ := Option.ne_none_iff_exists'.mp hb
    rw [step_request hin hd (by simpa [Instr.allowedFrom] using ha)]
    exact performInstr_of_blocked hi hr upto
  · exact ⟨_, step_request_of_other_agent hin hd ha⟩

/-! ### The free space and a WRITE -/

/-- One free slot is a full instance (R68, R70). -/
theorem free_eq_one_iff {n h t : Nat} (hh : h < n) (ht : t < n) : free n h t = 1 ↔ nextOffset n h = t := by
  rw [free, occ_of_lt hh ht, nextOffset_of_lt hh]
  split_ifs <;> omega

/-- With room a WRITE completes with its byte, and its one event is that of the fast path (R87, R90). -/
theorem exec_write_accepts {s : State} (hr : Ready s) (hh : s.tx.head < s.cfg.nTx)
    (hf : nextOffset s.cfg.nTx s.tx.head ≠ s.tx.tail) (f : Bool) (d : Byte) :
    ∃ t, exec (.write f d) s = .next t ∧ t.upc = .idle ∧ t.result = some (byteResult d) ∧
      (t.trace = s.trace ∨ t.trace = s.trace ++ [.txregWrite d]) := by
  by_cases hq : s.tx.head = s.tx.tail ∧ f = true
  · obtain ⟨he, rfl⟩ := hq
    exact ⟨_, exec_write_fast hr he, rfl, rfl, .inr rfl⟩
  · exact ⟨_, exec_write_room hr hq hh hf, rfl, rfl, .inl rfl⟩

/-- On a full instance a WRITE records the overflow and leaves the instance, under either policy (R88, R89). -/
theorem exec_write_overflows {s : State} (hr : Ready s) (hf : nextOffset s.cfg.nTx s.tx.head = s.tx.tail)
    (f : Bool) (d : Byte) :
    ∃ t, exec (.write f d) s = .next t ∧ t.trace = s.trace ++ [.note (.transmitOverflow d)] ∧ t.tx = s.tx := by
  cases hp : s.cfg.policy with
  | block => exact ⟨_, exec_write_block hr hf hp, rfl, rfl⟩
  | discard => exact ⟨_, exec_write_discard hr hf hp, rfl, rfl⟩

/-- Settles O51: a free space of 1 is a full instance. -/
theorem freeSpaceAboveOneAdmitsAWrite : Obligations.FreeSpaceAboveOneAdmitsAWrite := by
  intro s f d hr hs
  obtain ⟨hh, ht⟩ := hs.offsets hr.1.2 .tx
  have hone : s.freeSpace .tx = 1 ↔ nextOffset s.cfg.nTx s.tx.head = s.tx.tail := free_eq_one_iff hh ht
  exact ⟨fun h => exec_write_accepts hr hh (fun hf => absurd (hone.mpr hf) h.ne') f d,
    fun h => exec_write_overflows hr (hone.mp h) f d⟩

/-! ### A read split at a label -/

theorem execUpto_of_ready {i : Instr} {l : Label} {u : Upc} {s : State} (hu : startOf i = some u)
    (hl : l ∈ i.labels) (hr : Ready s) : execUpto i l s = runMicro (some l) microBound (goTo u s) := by
  rw [execUpto, hu]
  simp [Instr.splitsAt, hl, issueUpto, blockedMainline_of_ready hr]

/-- A run stops after the micro-step that `upto` names (R62). -/
theorem runMicro_stops {l : Label} {s t : State} (hm : microStep s = .onward t) (hl : s.upc.label = some l) :
    runMicro (some l) microBound s = .next t := by
  simp [microBound, runMicro, hm, hl]

/-! The micro-steps of a read, from a state put at its label. -/

section
variable (op : ReadOp) (h : Nat) {t f : Nat} (b : Byte) {s : State}

theorem microStep_goTo_t1 (hne : h ≠ s.rx.tail) :
    microStep (goTo (.t1 op h) s) = .onward (goTo (.t2 op h s.rx.tail) s) := microStep_t1_found rfl hne

theorem microStep_goTo_t2 (ht : t < s.cfg.nRx) :
    microStep (goTo (.t2 op h t) s) = .onward (goTo (.t3 op h t (s.slotByte .rx t)) s) := microStep_t2 rfl ht

theorem microStep_goTo_t3 (t : Nat) (hc : s.cfg.ctsPresent = true) : microStep (goTo (.t3 op h t b) s) =
    .onward (goTo (.t4 op h t b) (writeTail .rx (s.next .rx t) s)) := microStep_t3_gated rfl hc

theorem microStep_goTo_t5 (t h2 : Nat) (hg : s.gate = .stop) (hf : s.cfg.t ≤ f) :
    microStep (goTo (.t5 op h t b h2 f) s) = .onward (goTo (.t6 op h t b h2 f .stop) s) :=
  microStep_t5_opens rfl hg hf

end

/-- What T3 of a read leaves with no handler before it: the oldest byte is popped (R72, R96). -/
abbrev popTail (s : State) : State := writeTail .rx (s.next .rx s.rx.tail) s

section
variable {i : Instr} {op : ReadOp} {l : Label} {s : State} (hu : startOf i = some (.t0 op)) (hr : Ready s)
include hu hr

theorem execUpto_read (hl : l ∈ [Label.t0, .t1, .t2, .t3, .t4, .t5, .t6]) :
    execUpto i l s = runMicro (some l) microBound (goTo (.t0 op) s) :=
  execUpto_of_ready hu ((labels_of_startOf hu).symm ▸ hl) hr

/-- Split at T0 a read has latched the head (R96). -/
theorem execUpto_read_t0 : execUpto i .t0 s = .next (goTo (.t1 op s.rx.head) s) := by
  rw [execUpto_read hu hr (by simp)]
  exact runMicro_stops rfl rfl

theorem execUpto_read_from_t1 (hl : l ∈ [Label.t1, .t2, .t3, .t4, .t5, .t6]) :
    execUpto i l s = runMicro (some l) microBound (goTo (.t1 op s.rx.head) s) := by
  have h0 : microStep (goTo (.t0 op) s) = .onward (goTo (.t1 op s.rx.head) s) := rfl
  rw [execUpto_read hu hr (List.mem_cons_of_mem _ hl), runMicro_bound_onward h0 (by rintro ⟨⟩; simp at hl)]

variable (hne : s.rx.head ≠ s.rx.tail)
include hne

/-- Split at T1 a read of an instance that is not empty has latched the tail too (R96). -/
theorem execUpto_read_t1 : execUpto i .t1 s = .next (goTo (.t2 op s.rx.head s.rx.tail) s) := by
  rw [execUpto_read_from_t1 hu hr (by simp), runMicro_stops (microStep_goTo_t1 op _ hne) rfl]

theorem execUpto_read_from_t2 (hl : l ∈ [Label.t2, .t3, .t4, .t5, .t6]) :
    execUpto i l s = runMicro (some l) microBound (goTo (.t2 op s.rx.head s.rx.tail) s) := by
  rw [execUpto_read_from_t1 hu hr (List.mem_cons_of_mem _ hl),
    runMicro_bound_onward (microStep_goTo_t1 op _ hne) (by rintro ⟨⟩; simp at hl)]

variable (hlt : s.rx.tail < s.cfg.nRx)
include hlt

/-- Split at T2 it has read the byte at the tail (R96). -/
theorem execUpto_read_t2 :
    execUpto i .t2 s = .next (goTo (.t3 op s.rx.head s.rx.tail (s.slotByte .rx s.rx.tail)) s) := by
  rw [execUpto_read_from_t2 hu hr hne (by simp), runMicro_stops (microStep_goTo_t2 op _ hlt) rfl]

theorem execUpto_read_from_t3 (hl : l ∈ [Label.t3, .t4, .t5, .t6]) : execUpto i l s =
    runMicro (some l) microBound (goTo (.t3 op s.rx.head s.rx.tail (s.slotByte .rx s.rx.tail)) s) := by
  rw [execUpto_read_from_t2 hu hr hne (List.mem_cons_of_mem _ hl),
    runMicro_bound_onward (microStep_goTo_t2 op _ hlt) (by rintro ⟨⟩; simp at hl)]

variable (hc : s.cfg.ctsPresent = true)
include hc

/-- Split at T3, where there is a gate, it has popped (R96). -/
theorem execUpto_read_t3 : execUpto i .t3 s =
    .next (goTo (.t4 op s.rx.head s.rx.tail (s.slotByte .rx s.rx.tail)) (popTail s)) := by
  rw [execUpto_read_from_t3 hu hr hne hlt (by simp), runMicro_stops (microStep_goTo_t3 op _ _ _ hc) rfl]

theorem execUpto_read_from_t4 (hl : l ∈ [Label.t4, .t5, .t6]) : execUpto i l s =
    runMicro (some l) microBound (goTo (.t4 op s.rx.head s.rx.tail (s.slotByte .rx s.rx.tail)) (popTail s)) := by
  rw [execUpto_read_from_t3 hu hr hne hlt (List.mem_cons_of_mem _ hl),
    runMicro_bound_onward (microStep_goTo_t3 op _ _ _ hc) (by rintro ⟨⟩; simp at hl)]

/-- Split at T4 it has latched the head again, and the free space after the pop (R85). -/
theorem execUpto_read_t4 : execUpto i .t4 s =
    .next (goTo (.t5 op s.rx.head s.rx.tail (s.slotByte .rx s.rx.tail) s.rx.head
      (openingFree s s.rx.tail s.rx.head)) (popTail s)) := by
  rw [execUpto_read_from_t4 hu hr hne hlt hc (by simp)]
  exact runMicro_stops rfl rfl

/-- Split at T5, where both tests hold, it stands before T6 (R85). -/
theorem execUpto_read_t5 (hg : s.gate = .stop) (hf : s.cfg.t ≤ openingFree s s.rx.tail s.rx.head) :
    execUpto i .t5 s = .next (goTo (.t6 op s.rx.head s.rx.tail (s.slotByte .rx s.rx.tail) s.rx.head
      (openingFree s s.rx.tail s.rx.head) .stop) (popTail s)) := by
  have h4 : microStep (goTo (.t4 op s.rx.head s.rx.tail (s.slotByte .rx s.rx.tail)) (popTail s)) =
      .onward (goTo (.t5 op s.rx.head s.rx.tail (s.slotByte .rx s.rx.tail) s.rx.head
        (openingFree s s.rx.tail s.rx.head)) (popTail s)) := rfl
  rw [execUpto_read_from_t4 hu hr hne hlt hc (by simp), runMicro_bound_onward h4 (by simp [Upc.label]),
    runMicro_stops (microStep_goTo_t5 (s := popTail s) op _ _ _ _ hg hf) rfl]

end

/-! ### The stale gate write -/

/-- Below the threshold the receive handler leaves the gate Stop (R84). -/
theorem afterData_gate_of_below {d : Byte} {s : State} (hc : s.cfg.ctsPresent = true)
    (hf : (afterData d s).freeSpace .rx < s.cfg.t) : (afterData d s).gate = .stop :=
  (closeGate_moves _).2 (by simpa [receivedAtHead] using hc) (by simpa [afterData, receivedAtHead] using hf)

/-- A byte received just after a pop restores the free space (R69, R70, R104). -/
theorem freeSpace_afterData_popTail {d : Byte} {u : Upc} {s : State} (ha : Armed s) (ho : OffsetsInRange s)
    (hne : s.rx.head ≠ s.rx.tail) : (afterData d (goTo u (popTail s))).freeSpace .rx = s.freeSpace .rx := by
  obtain ⟨hh, ht⟩ := ho .rx
  have hroom : nextOffset s.cfg.nRx s.rx.head ≠ nextOffset s.cfg.nRx s.rx.tail := fun heq =>
    hne (nextOffset_inj hh ht heq)
  have hocc : occ s.cfg.nRx (nextOffset s.cfg.nRx s.rx.head) (nextOffset s.cfg.nRx s.rx.tail) =
      occ s.cfg.nRx s.rx.head s.rx.tail := occ_next_both (armed_cap ha .rx) hh ht hne
  simp [afterData_rx, hroom, free, hocc]

/-- At T5 with both tests satisfied a read opens the gate and completes, whatever the free space is by then (R85). -/
theorem resume_t5_opens {op : ReadOp} {h t h2 f : Nat} {b : Byte} {s : State} (ha : Armed s)
    (hu : s.upc = .t5 op h t b h2 f) (hg : s.gate = .stop) (hf : s.cfg.t ≤ f) :
    resumeUpto none s = .next (complete (some (readResult b true)) (writeGate .go s)) := by
  rw [resumeUpto_of_armed ha, runMicro_bound_onward (microStep_t5_opens hu hg hf) (by simp [hu, Upc.label])]
  exact runMicro_done rfl none 8

/-- After a pop of an instance that is not empty, the free space that T4 latches is one more than before (R70, R85). -/
theorem openingFree_eq_freeSpace_add_one {s : State} (ha : Armed s) (ho : OffsetsInRange s)
    (hne : s.rx.head ≠ s.rx.tail) : openingFree s s.rx.tail s.rx.head = s.freeSpace .rx + 1 := by
  obtain ⟨hh, ht⟩ := ho .rx
  have hocc : occ s.cfg.nRx s.rx.head s.rx.tail = occ s.cfg.nRx s.rx.head (nextOffset s.cfg.nRx s.rx.tail) + 1 :=
    occ_next_tail (armed_cap ha .rx) hh ht hne
  have hlt : occ s.cfg.nRx s.rx.head s.rx.tail < s.cfg.nRx := occ_lt _ _ (Nat.zero_lt_of_lt hh)
  simp only [openingFree, freeSpace_rx, next_rx, free]
  omega

/-- Settles O50: the pop brings the latched free space to the threshold, and the byte received takes it below again. -/
theorem staleGateWrite : Obligations.StaleGateWrite := by
  intro s d hr hs hc hg hne hf
  have ho := hs.offsets hr.1.2
  have hlatched := (openingFree_eq_freeSpace_add_one hr.1 ho hne).trans hf
  have hbelow (u : Upc) : (afterData d (goTo u (popTail s))).freeSpace .rx < s.cfg.t := by
    rw [freeSpace_afterData_popTail hr.1 ho hne]
    omega
  have hstop (u : Upc) : (afterData d (goTo u (popTail s))).gate = .stop := afterData_gate_of_below hc (hbelow u)
  refine ⟨_, _, _, execUpto_read_t4 rfl hr hne (ho .rx).2 hc,
    (exec_rxisr_of_armed (by exact hr.1) ..).trans (receiveHandler_of_data (by exact (ho .rx).1) d), hstop _,
    resume_t5_opens (by simpa [Armed] using hr.1) (afterData_upc d _) (hstop _) (by simp [hlatched]), rfl, rfl, ?below⟩
  case below => simpa using hbelow _

/-! ### What an error recovery leaves to the read in progress -/

/-- The receive instance and the gate as an error recovery leaves them (R80, R103). -/
structure Recovered (s : State) : Prop where
  head : s.rx.head = 0
  tail : s.rx.tail = 0
  gate : s.cfg.ctsPresent = true → s.gate = .go

theorem recovered_recoverReceive (s : State) : Recovered (recoverReceive s) :=
  ⟨by simp, by simp, fun hc => by rw [recoverReceive_gate, if_pos (by simpa using hc)]⟩

theorem exec_rxisr_error {s : State} (ha : Armed s) (d : Byte) :
    exec (.rxisr true true d) s = .next (recoverReceive s) :=
  (exec_rxisr_of_armed ha true true d).trans (receiveHandler_of_error d s)

theorem armed_recoverReceive {s : State} (ha : Armed s) : Armed (recoverReceive s) := by simpa [Armed] using ha

theorem recoverReceive_gate_of_present {s : State} (hc : s.cfg.ctsPresent = true) : (recoverReceive s).gate = .go :=
  (recovered_recoverReceive s).gate (by simpa using hc)

/-- Resumed, the read in progress completes with the byte `b`, the head 0, the tail at `tail`, and the gate as it is. -/
def ReadCompletes (s : State) (tail : Nat) (b : Byte) : Prop :=
  ∃ t, resumeUpto none s = .next t ∧ t.upc = .idle ∧ t.rx.head = 0 ∧ t.rx.tail = tail ∧ t.gate = s.gate ∧
    t.result = some (readResult b true)

/-- The latches at T4, T5 and T6 of a read that has popped the byte `b`. -/
inductive HasPopped (b : Byte) : Upc → Prop where
  | t4 (op : ReadOp) (h t : Nat) : HasPopped b (.t4 op h t b)
  | t5 (op : ReadOp) (h t h2 f : Nat) : HasPopped b (.t5 op h t b h2 f)
  | t6 (op : ReadOp) (h t h2 f : Nat) (g : Gate) : HasPopped b (.t6 op h t b h2 f g)

theorem label_of_hasPopped {b : Byte} {u : Upc} (h : HasPopped b u) :
    u.label = some .t4 ∨ u.label = some .t5 ∨ u.label = some .t6 := by
  cases h <;> simp [Upc.label]

theorem nextOffset_zero {n : Nat} (hn : 2 ≤ n) : nextOffset n 0 = 1 := Nat.mod_eq_of_lt hn

section
variable {s : State} {op : ReadOp} {h t tail : Nat} {b : Byte} (ha : Armed s)
include ha

/-- A micro-step that only moves on to its next label does not change how the read completes. -/
theorem readCompletes_of_onward {u : Upc} (hm : microStep s = .onward (goTo u s))
    (hc : ReadCompletes (goTo u s) tail b) : ReadCompletes s tail b := by
  have hbusy := (microStep_onward hm).2.1
  have hrun := runMicro_bound_onward (upto := none) hm (by simpa [label_eq_none_iff] using hbusy)
  rwa [ReadCompletes, resumeUpto_of_armed ha, hrun, ← resumeUpto_of_armed (s := goTo u s) ha]

variable (hz : Recovered s)
include hz

/-- The opening step does nothing after a recovery, and T3 commits the latched tail over the 0 (R139). -/
theorem readCompletes_t3 (hu : s.upc = .t3 op h t b) : ReadCompletes s (nextOffset s.cfg.nRx t) b := by
  have hgo : goTo (.t3 op h t b) s = s := by rw [← hu]; rfl
  have hopen : openingStep t (writeTail .rx (s.next .rx t) s) = writeTail .rx (s.next .rx t) s :=
    openingStep_of_not_opens fun ⟨hc, hg, _⟩ => by cases (hz.gate hc).symm.trans hg
  have hrun : runMicro none microBound (goTo (.t3 op h t b) s) = _ := runMicro_read_pop op h t b s 5
  rw [hgo, hopen, ← resumeUpto_of_armed ha] at hrun
  exact ⟨_, hrun, rfl, hz.head, rfl, rfl, rfl⟩

theorem readCompletes_t2 (hu : s.upc = .t2 op h t) (ht : t < s.cfg.nRx) :
    ReadCompletes s (nextOffset s.cfg.nRx t) (s.slotByte .rx t) :=
  readCompletes_of_onward ha (microStep_t2 hu ht) (readCompletes_t3 (s := goTo _ s) ha ⟨hz.head, hz.tail, hz.gate⟩ rfl)

/-- With a head latched that is not 0 the read takes the instance for one that is not empty (R139). -/
theorem readCompletes_t1 (hu : s.upc = .t1 op h) (hh : h ≠ 0) :
    ReadCompletes s (nextOffset s.cfg.nRx 0) (s.slotByte .rx 0) := by
  have h1 := microStep_t1_found hu (hz.tail ▸ hh)
  rw [hz.tail] at h1
  exact readCompletes_of_onward ha h1 (readCompletes_t2 (s := goTo _ s) ha ⟨hz.head, hz.tail, hz.gate⟩ rfl
    (Nat.zero_lt_of_lt (armed_cap ha .rx)))

theorem readCompletes_of_done {u : State} (hm : microStep s = .done (complete (some (readResult b true)) u))
    (hrx : u.rx = s.rx) (hg : u.gate = s.gate) : ReadCompletes s 0 b :=
  ⟨_, (resumeUpto_of_armed ha none).trans (runMicro_done hm none 8), rfl, (congrArg Fifo.head hrx).trans hz.head,
    (congrArg Fifo.tail hrx).trans hz.tail, hg, rfl⟩

/-- Past T3 the offsets stay, and a gate that is Go can at most be written Go (R139). -/
theorem readCompletes_hasPopped (hg : s.gate = .go) (hu : HasPopped b s.upc) : ReadCompletes s 0 b := by
  have hshut (f : Nat) : ¬ (s.gate = .stop ∧ s.cfg.t ≤ f) := by simp [hg]
  generalize hup : s.upc = u at hu
  cases hu with
  | t4 op h t =>
    have h4 : microStep s = .onward (goTo (.t5 op h t b s.rx.head (openingFree s t s.rx.head)) s) := by
      rw [microStep, hup]; rfl
    exact readCompletes_of_onward ha h4 (readCompletes_of_done (s := goTo _ s) ha ⟨hz.head, hz.tail, hz.gate⟩
      (microStep_t5_stays rfl (hshut _)) rfl rfl)
  | t5 op h t h2 f => exact readCompletes_of_done ha hz (microStep_t5_stays hup (hshut f)) rfl rfl
  | t6 op h t h2 f g =>
    have h6 : microStep s = .done (complete (some (readResult b true)) (writeGate .go s)) := by
      rw [microStep, hup]; rfl
    exact readCompletes_of_done ha hz h6 rfl hg.symm

/-- At T0, and at T1 with the head latched 0, a read comes to find nothing at T1. -/
theorem resume_recovered_at_t1 (hu : s.upc = .t0 op ∨ s.upc = .t1 op 0) :
    resumeUpto none s = runMicro none microBound (goTo (.t1 op s.rx.head) s) := by
  rw [resumeUpto_of_armed ha]
  obtain hu | hu := hu
  · have h0 : microStep s = .onward (goTo (.t1 op s.rx.head) s) := by rw [microStep, hu]; rfl
    exact runMicro_bound_onward h0 (by simp [hu, Upc.label])
  · rw [hz.head, ← hu]
    rfl

/-- There a READB waits at T0 (R99, R139). -/
theorem resume_readb_recovered (hu : s.upc = .t0 .readb ∨ s.upc = .t1 .readb 0) :
    resumeUpto none s = .next (goTo (.t0 .readb) s) := by
  rw [resume_recovered_at_t1 ha hz hu]
  exact runMicro_waiting (microStep_readb_empty (hz.head.trans hz.tail.symm)) (by simp [Upc.label]) 8

/-- There a TRYREAD completes with `found = false` (R98, R139). -/
theorem resume_tryread_recovered (hu : s.upc = .t0 .tryread ∨ s.upc = .t1 .tryread 0) :
    ∃ u v, resumeUpto none s = .next u ∧ u.upc = .idle ∧ u.rx = s.rx ∧ u.gate = s.gate ∧
      u.result = some { flag := false, value := v } := by
  have h1 := microStep_t1_notFound (s := goTo (.t1 .tryread s.rx.head) s) rfl (hz.head.trans hz.tail.symm)
  rw [resume_recovered_at_t1 ha hz hu]
  exact ⟨_, _, runMicro_done h1 none 8, rfl, rfl, rfl, rfl⟩

end

/-! ### An error recovery inside a read -/

theorem resumeUpto_cfg {upto : Option Label} {s t : State} (h : resumeUpto upto s = .next t) : t.cfg = s.cfg := by
  obtain ⟨ha, hrun⟩ := resumeUpto_next h
  exact (runMicro_keeps (P := fun x => x.cfg = s.cfg) (fun _ _ _ hx hm => (microStep_frame hm).1.trans hx) ha rfl
    hrun).1

section
variable {s : State} {op : ReadOp} {h t : Nat} {b : Byte} (ha : Armed s)
include ha

/-! How a read in progress completes after a recovery, by its label (R139). -/

/-- At T1 with a head latched that is not 0, the byte of slot 0 is popped, and the instance looks full. -/
theorem recovery_at_t1 (hu : s.upc = .t1 op h) (hh : h ≠ 0) : ∃ x, resumeUpto none (recoverReceive s) = .next x ∧
    x.upc = .idle ∧ x.rx.head = 0 ∧ x.rx.tail = 1 ∧ x.full .rx = true ∧ x.gate = (recoverReceive s).gate ∧
    x.result = some (readResult (s.slotByte .rx 0) true) := by
  obtain ⟨x, hrun, hidle, hhead, htail, hgate, hres⟩ :=
    readCompletes_t1 (armed_recoverReceive ha) (recovered_recoverReceive s) (by simpa using hu) hh
  rw [recoverReceive_cfg] at htail
  have hfull : x.full .rx = true := by simp [resumeUpto_cfg hrun, hhead, htail]
  exact ⟨x, hrun, hidle, hhead, htail.trans (nextOffset_zero (armed_cap ha .rx)), hfull, hgate, by simpa using hres⟩

theorem recovery_at_t2 (hu : s.upc = .t2 op h t) (ht : t < s.cfg.nRx) :
    ReadCompletes (recoverReceive s) (nextOffset s.cfg.nRx t) (s.slotByte .rx t) := by
  simpa using readCompletes_t2 (armed_recoverReceive ha) (recovered_recoverReceive s) (by simpa using hu)
    (by simpa using ht)

theorem recovery_at_t3 (hu : s.upc = .t3 op h t b) :
    ReadCompletes (recoverReceive s) (nextOffset s.cfg.nRx t) b := by
  simpa using readCompletes_t3 (armed_recoverReceive ha) (recovered_recoverReceive s) (by simpa using hu)

theorem recovery_hasPopped (hc : s.cfg.ctsPresent = true) (hu : HasPopped b s.upc) :
    ReadCompletes (recoverReceive s) 0 b :=
  readCompletes_hasPopped (armed_recoverReceive ha) (recovered_recoverReceive s)
    (recoverReceive_gate_of_present hc) (by simpa using hu)

end

/-- Split at T3, at T4, or at T5 where T6 follows, a read has popped the oldest byte. -/
theorem execUpto_read_hasPopped {i : Instr} {op : ReadOp} {l : Label} {s : State} (hu : startOf i = some (.t0 op))
    (hr : Ready s) (hne : s.rx.head ≠ s.rx.tail) (hlt : s.rx.tail < s.cfg.nRx) (hc : s.cfg.ctsPresent = true)
    (hl : l = .t3 ∨ l = .t4 ∨ (l = .t5 ∧ s.gate = .stop ∧ s.cfg.t ≤ openingFree s s.rx.tail s.rx.head)) :
    ∃ u, execUpto i l s = .next (goTo u (popTail s)) ∧ HasPopped (s.slotByte .rx s.rx.tail) u := by
  obtain rfl | rfl | ⟨rfl, hg, hf⟩ := hl
  · exact ⟨_, execUpto_read_t3 hu hr hne hlt hc, .t4 ..⟩
  · exact ⟨_, execUpto_read_t4 hu hr hne hlt hc, .t5 ..⟩
  · exact ⟨_, execUpto_read_t5 hu hr hne hlt hc hg hf, .t6 ..⟩

/-- Split at T1 or at T2 and recovered, a read commits the tail it has latched over the handler's 0 (R139). -/
theorem recovery_after_latches {i : Instr} {op : ReadOp} {l : Label} {s : State} (hu : startOf i = some (.t0 op))
    (hr : Ready s) (hl : l = .t1 ∨ l = .t2) (hne : s.rx.head ≠ s.rx.tail) (hlt : s.rx.tail < s.cfg.nRx) :
    ∃ u, execUpto i l s = .next (goTo u s) ∧
      ReadCompletes (recoverReceive (goTo u s)) (nextOffset s.cfg.nRx s.rx.tail) (s.slotByte .rx s.rx.tail) := by
  obtain rfl | rfl := hl
  · exact ⟨_, execUpto_read_t1 hu hr hne, recovery_at_t2 (s := goTo (.t2 op s.rx.head s.rx.tail) s) hr.1 rfl hlt⟩
  · exact ⟨_, execUpto_read_t2 hu hr hne hlt,
      recovery_at_t3 (s := goTo (.t3 op s.rx.head s.rx.tail (s.slotByte .rx s.rx.tail)) s) hr.1 rfl⟩

/-- Settles O49: split at a label, a read has the latches of that label; and from each label it completes, after the
recovery, in its own way. -/
theorem errorRecoveryInsideTryread : Obligations.ErrorRecoveryInsideTryread := by
  refine ⟨fun i s d hi hr hs => ?split, fun s d ha hs => ?inProgress⟩
  case split =>
    obtain ⟨op, hu⟩ : ∃ op, startOf i = some (.t0 op) := by
      obtain rfl | rfl := hi <;> exact ⟨_, rfl⟩
    have ht := (hs.offsets hr.1.2 .rx).2
    have herr {x : State} (hx : Armed x) := exec_rxisr_error hx d
    refine ⟨fun hne l hl => ?latched, fun hne => ?stale, fun he => ?nothing, fun hne hc l hl => ?popped⟩
    case latched =>
      obtain ⟨u, hx, y, hrun, hidle, hhead, htail, hgate, hres⟩ := recovery_after_latches hu hr hl hne ht
      exact ⟨_, _, y, hx, herr hr.1, by simp, by simp, hrun, hidle, hhead, htail,
        fun hc => hgate.trans (recoverReceive_gate_of_present hc), hres⟩
    case stale =>
      obtain ⟨y, hrun, hidle, hhead, htail, hfull, hgate, hres⟩ :=
        recovery_at_t1 (s := goTo (.t1 op s.rx.head) s) hr.1 rfl hne
      exact ⟨_, _, y, execUpto_read_t0 hu hr, herr hr.1, by simp, by simp, hrun, hidle, hhead, htail, hfull,
        fun hc => hgate.trans (recoverReceive_gate_of_present hc), hres⟩
    case nothing =>
      have hz := recovered_recoverReceive (goTo (.t1 op 0) s)
      have ha : Armed (recoverReceive (goTo (.t1 op 0) s)) := armed_recoverReceive hr.1
      have hsplit := he ▸ execUpto_read_t0 hu hr
      obtain rfl | rfl := hi <;> cases hu
      · obtain ⟨y, v, hrun, hidle, hrx, hgate, hres⟩ := resume_tryread_recovered ha hz (.inr (by simp))
        exact ⟨_, _, y, hsplit, herr hr.1, hrun, by simp [hrx], by simp [hrx],
          fun hc => hgate.trans (recoverReceive_gate_of_present hc), fun _ => ⟨hidle, v, hres⟩, nofun⟩
      · exact ⟨_, _, _, hsplit, herr hr.1, resume_readb_recovered ha hz (.inr (by simp)), hz.head, hz.tail,
          fun hc => recoverReceive_gate_of_present hc, nofun, fun _ => rfl⟩
    case popped =>
      obtain ⟨u, hx, hp⟩ := execUpto_read_hasPopped hu hr hne ht hc hl
      obtain ⟨y, hrun, hidle, hhead, htail, hgate, hres⟩ := recovery_hasPopped (s := goTo u (popTail s)) hr.1 hc hp
      have hgo : (recoverReceive (goTo u (popTail s))).gate = .go := recoverReceive_gate_of_present hc
      exact ⟨_, _, y, hx, herr hr.1, by simp, by simp, hgo, hrun, hidle, hhead, htail, hgate.trans hgo, hres⟩
  case inProgress =>
    have ha' := armed_recoverReceive ha
    have hz := recovered_recoverReceive s
    obtain ⟨-, hlatch, -⟩ := hs.latches ha.2
    refine ⟨recoverReceive s, exec_rxisr_error ha d, recoverReceive_upc s, hz.head, hz.tail,
      recoverReceive_gate_of_present, fun hu => resume_readb_recovered ha' hz (by simpa using hu),
      fun hu => resume_tryread_recovered ha' hz (by simpa using hu), fun op h hu hh => recovery_at_t1 ha hu hh,
      fun op h t hu => recovery_at_t2 ha hu (hlatch t (by simp [hu, Upc.rxOffsets])),
      fun op h t b hu => recovery_at_t3 ha hu, fun op h t b hu => ?popped⟩
    case popped =>
      have hp : HasPopped b s.upc := by
        obtain hu | ⟨h2, f, hu⟩ | ⟨h2, f, g, hu⟩ := hu <;> rw [hu] <;> constructor
      have hc : s.cfg.ctsPresent = true := hs.gated ha.2 (label_of_hasPopped hp)
      obtain ⟨y, hrun, hidle, hhead, htail, hgate, hres⟩ := recovery_hasPopped ha hc hp
      exact ⟨y, hrun, hidle, hhead, htail, hgate.trans (recoverReceive_gate_of_present hc), hres⟩

end Sys2Proof.Machine
end
